-- ==== Sys2Proof/Word.lean ====
section
/-! DEFINITION. The two widths of the block (00_scope.md R6): the byte of a register, a memory cell or a port,
and the 16-bit word of a pair, a pointer or an address. -/

namespace Sys2Proof

/-- A byte: a general register, a memory cell, a port number or port data (R6). -/
abbrev Byte := BitVec 8

/-- A 16-bit word: a register pair, SP, pc, an address or a 16-bit immediate (R6). -/
abbrev Word := BitVec 16

end Sys2Proof
end

