-- ==== Sys2Proof/Config.lean ====
section
/-! DEFINITION. The parameters of the block (00_scope.md R7) and the values the spec leaves open.
A parameter with a choice the spec describes is a field of `Params`, so that every choice is modelled; a value the
spec leaves open (OPEN, a draw, an oracle answer) is an opaque constant, so that nothing can be proved of it. -/

namespace Sys2Proof

/-- UNDEF_POLICY (R7, 30_encoding.md R92): what the twelve undefined opcodes mean. `aliased` is the spec's `alias`. -/
inductive UndefPolicy
  | nop
  | aliased
  deriving DecidableEq, Repr

/-- FLAG_PROFILE (R7, R131): flag effects of INR, DCR, INX, DCX, DAD and CMA. -/
inductive FlagProfile
  | canonical
  | docLiteral
  deriving DecidableEq, Repr

/-- ANA_AC (R7, 41_alu_flags.md R144): the AC flag after ANA and ANI. -/
inductive AnaAc
  | clear
  | orBit3
  deriving DecidableEq, Repr

/-- FETCH_WINDOW (R7, 40_execution_cycle.md R121): which addresses instruction bytes may come from. -/
inductive FetchWindow
  | image
  | memory
  deriving DecidableEq, Repr

/-- PORT_HANDLER (R7, 20_memory.md R64, R65). A handler that is present is an oracle. `answers` names the bytes its
first reads return, in call order, for a claim that names a handler; past its end, and always for `present []`, an
answer is the free value `Config.portAnswer`. DESIGN CHOICE, safe (log 6). -/
inductive PortHandler
  | absent
  | present (answers : List Byte)
  deriving DecidableEq, Repr

/-- The parameters a step consults, and ENTRY, with the defaults of R7. IMAGE_LEN has no default in R7: 0 stands
for "no image loaded" (log 4). -/
structure Params where
  /-- MEM_SIZE, 1 to 65536. -/
  memSize : Nat := 65536
  /-- BASE, where the image is loaded. -/
  base : Word := 0
  /-- IMAGE_LEN, the length of the loaded image. -/
  imageLen : Nat := 0
  /-- ENTRY, the pc at the start of a run. -/
  entry : Word := base
  flagProfile : FlagProfile := .canonical
  anaAc : AnaAc := .clear
  undefPolicy : UndefPolicy := .nop
  fetchWindow : FetchWindow := .image
  portHandler : PortHandler := .absent
  deriving DecidableEq, Repr

/-- One call of the port handler (20_memory.md R65). A read records its port, a write its port and value, as the log of
95_test_vectors.md P8 does. -/
inductive Machine.PortEvent
  | read (port : Byte)
  | write (port value : Byte)
  deriving DecidableEq, Repr

namespace Config

/-- PORT_SENTINEL (R64, D10): the byte IN returns when no handler is present. OPEN: no value is given. -/
opaque portSentinel : Byte

/-- What a handler answers to a read of the given port after the given calls, where no answer is named (R65): it may depend
on every earlier read and write (log 6). -/
opaque portAnswer : List Machine.PortEvent → Byte → Byte

/-- The n-th draw of a flag in a run (41_alu_flags.md R157). -/
opaque flagDraw : Nat → Bool

/-- What a byte of memory that nothing has written reads as at `State.reset`. DESIGN CHOICE, unsafe (log 3): the spec
leaves it to INIT (R34). -/
def unlistedByte : Byte := 0x00

end Config

end Sys2Proof
end

