-- ==== Sys2Proof/Syntax.lean ====
section
/-! DEFINITION. The instructions (spec/opcode_table.json, 30_encoding.md R80 to R94) as syntax, with operands already
decoded: an opcode's register, pair, condition and restart fields are constructors, its immediates words. -/

namespace Sys2Proof

/-- The seven general registers (10_state.md R21), in the order of their codes (R22). -/
inductive Reg
  | b | c | d | e | h | l | a
  deriving DecidableEq, Repr

/-- An 8-bit operand of a `ddd` or `sss` field (R84): a register, or M, the memory byte at HL. -/
inductive RegM
  | reg (r : Reg)
  | m
  deriving DecidableEq, Repr

/-- The 16-bit operand of a `pp` field (10_state.md R24): LXI, INX, DCX, DAD. -/
inductive Pair
  | bc | de | hl | sp
  deriving DecidableEq, Repr

/-- The 16-bit operand of a `qq` field (10_state.md R24): PUSH, POP. -/
inductive StackPair
  | bc | de | hl | psw
  deriving DecidableEq, Repr

/-- The pointer pair of LDAX and STAX (30_encoding.md R85). -/
inductive PtrPair
  | bc | de
  deriving DecidableEq, Repr

/-- A condition code, in the order of R87. -/
inductive Cond
  | nz | z | nc | c | po | pe | p | m
  deriving DecidableEq, Repr

/-- The twelve opcode values that name no Intel 8080 instruction (30_encoding.md R92). -/
inductive UndefOp
  | x08 | x10 | x18 | x20 | x28 | x30 | x38 | xCB | xD9 | xDD | xED | xFD
  deriving DecidableEq, Repr

/-- The operand classes of a descriptor (30_encoding.md R91). -/
inductive OperandClass
  | none | regImplied | imm8 | imm16
  deriving DecidableEq, Repr

/-- The decoder's only failure (30_encoding.md R96) and the only reason of `Faulted` (10_state.md R30). -/
inductive FaultReason
  | incompleteInstruction
  deriving DecidableEq, Repr

/-- What a decode or a fetch answers: a value, or the failure by its name. -/
inductive Decoded (α : Type)
  | ok (value : α)
  | error (reason : FaultReason)
  deriving DecidableEq, Repr

/-- The instructions. MOV has a constructor per rule (R171 to R173), because its M,M slot is HLT; a mnemonic of
the table is otherwise one constructor, whose operands are its rows. The twelve undefined opcodes are `starNop`, and
under UNDEF_POLICY = alias also `starJmp`, `starRet` and `starCall` (R92, R327): the spec's `*NOP`, `*JMP`, `*RET` and `*CALL`. -/
inductive Instr
  -- data movement (42_data_movement.md)
  | movRR (dst src : Reg)
  | movRM (dst : Reg)
  | movMR (src : Reg)
  | mvi (dst : RegM) (d8 : Byte)
  | lxi (rp : Pair) (d16 : Word)
  | lda (a16 : Word)
  | sta (a16 : Word)
  | lhld (a16 : Word)
  | shld (a16 : Word)
  | ldax (rp : PtrPair)
  | stax (rp : PtrPair)
  | xchg
  -- arithmetic (43_arithmetic.md)
  | add (x : RegM)
  | adi (d8 : Byte)
  | adc (x : RegM)
  | aci (d8 : Byte)
  | sub (x : RegM)
  | sui (d8 : Byte)
  | sbb (x : RegM)
  | sbi (d8 : Byte)
  | inr (x : RegM)
  | dcr (x : RegM)
  | inx (rp : Pair)
  | dcx (rp : Pair)
  | dad (rp : Pair)
  | daa
  | cmp (x : RegM)
  | cpi (d8 : Byte)
  -- logical, rotate and carry (44_logical.md)
  | ana (x : RegM)
  | ani (d8 : Byte)
  | xra (x : RegM)
  | xri (d8 : Byte)
  | ora (x : RegM)
  | ori (d8 : Byte)
  | rlc
  | rrc
  | ral
  | rar
  | cma
  | cmc
  | stc
  -- control flow (45_control_flow.md)
  | jmp (a16 : Word)
  | jnz (a16 : Word)
  | jz (a16 : Word)
  | jnc (a16 : Word)
  | jc (a16 : Word)
  | jpo (a16 : Word)
  | jpe (a16 : Word)
  | jp (a16 : Word)
  | jm (a16 : Word)
  | call (a16 : Word)
  | cnz (a16 : Word)
  | cz (a16 : Word)
  | cnc (a16 : Word)
  | cc (a16 : Word)
  | cpo (a16 : Word)
  | cpe (a16 : Word)
  | cp (a16 : Word)
  | cm (a16 : Word)
  | ret
  | rnz
  | rz
  | rnc
  | rc
  | rpo
  | rpe
  | rp
  | rm
  | rst (n : BitVec 3)
  | pchl
  -- stack (46_stack.md)
  | push (rp : StackPair)
  | pop (rp : StackPair)
  | xthl
  | sphl
  -- I/O and machine control (47_io_machine_control.md)
  | inp (port : Byte)
  | out (port : Byte)
  | ei
  | di
  | hlt
  | nop
  | starNop (u : UndefOp)
  | starJmp (a16 : Word)
  | starRet
  | starCall (u : UndefOp) (a16 : Word)
  deriving DecidableEq, Repr

end Sys2Proof
end

