-- ==== Sys2Proof/WellFormed.lean ====
section
/-! DEFINITION. When an instruction is one the opcode table gives under an UNDEF_POLICY, and when the parameters are in
their ranges (00_scope.md R7). -/

namespace Sys2Proof

/-- The undefined opcodes that are NOP under both policies (30_encoding.md R92). -/
def UndefOp.alwaysNop : UndefOp → Bool
  | .x08 | .x10 | .x18 | .x20 | .x28 | .x30 | .x38 => true
  | .xCB | .xD9 | .xDD | .xED | .xFD => false

/-- The undefined opcodes that are CALL under `alias` (30_encoding.md R92). -/
def UndefOp.callsWhenAliased : UndefOp → Bool
  | .xDD | .xED | .xFD => true
  | .x08 | .x10 | .x18 | .x20 | .x28 | .x30 | .x38 | .xCB | .xD9 => false

/-- Whether the opcode table has the instruction under the policy: every documented instruction is there under both;
an undefined opcode is `*NOP` under `nop`, and what R92 says under `alias`. -/
def Instr.wf (pol : UndefPolicy) : Instr → Bool
  | .starNop u => pol = .nop || u.alwaysNop
  | .starJmp _ => pol = .aliased
  | .starRet => pol = .aliased
  | .starCall u _ => pol = .aliased && u.callsWhenAliased
  | .movRR _ _ | .movRM _ | .movMR _ | .mvi _ _ | .lxi _ _ | .lda _ | .sta _ | .lhld _ | .shld _ | .ldax _ | .stax _
  | .xchg => true
  | .add _ | .adi _ | .adc _ | .aci _ | .sub _ | .sui _ | .sbb _ | .sbi _ | .inr _ | .dcr _ | .inx _ | .dcx _ | .dad _
  | .daa | .cmp _ | .cpi _ => true
  | .ana _ | .ani _ | .xra _ | .xri _ | .ora _ | .ori _ | .rlc | .rrc | .ral | .rar | .cma | .cmc | .stc => true
  | .jmp _ | .jnz _ | .jz _ | .jnc _ | .jc _ | .jpo _ | .jpe _ | .jp _ | .jm _ => true
  | .call _ | .cnz _ | .cz _ | .cnc _ | .cc _ | .cpo _ | .cpe _ | .cp _ | .cm _ => true
  | .ret | .rnz | .rz | .rnc | .rc | .rpo | .rpe | .rp | .rm | .rst _ | .pchl => true
  | .push _ | .pop _ | .xthl | .sphl => true
  | .inp _ | .out _ | .ei | .di | .hlt | .nop => true

/-- The ranges of R7: 1 ≤ MEM_SIZE ≤ 65536 and IMAGE_LEN ≤ MEM_SIZE. -/
def Params.wf (p : Params) : Bool :=
  1 ≤ p.memSize && p.memSize ≤ 65536 && p.imageLen ≤ p.memSize

end Sys2Proof
end

