-- ==== Sys2Proof/Decode.lean ====
section
/-! DEFINITION. The opcode map (30_encoding.md R80 to R94), the decoder (R95 to R97) and, after them, the encoder: the
bytes of an instruction, from the same tables. -/

namespace Sys2Proof

/-! ### Bytes, words and bit fields -/

/-- `hi:lo` (00_scope.md R9): the word with the given high and low byte. -/
def wordOf (hi lo : Byte) : Word := hi ++ lo

/-- `v[15:8]`. -/
def hiByte (v : Word) : Byte := v.extractLsb' 8 8

/-- `v[7:0]`. -/
def loByte (v : Word) : Byte := v.extractLsb' 0 8

/-- The group `gg`, bits 7:6 of an opcode byte (R81). -/
def groupOf (op : Byte) : Nat := (op.extractLsb' 6 2).toNat

/-- The field `yyy`, bits 5:3 (R81): `ddd`, `aaa`, `ccc` or `nnn`. -/
def yOf (op : Byte) : BitVec 3 := op.extractLsb' 3 3

/-- The field `zzz`, bits 2:0 (R81): `sss`. -/
def zOf (op : Byte) : BitVec 3 := op.extractLsb' 0 3

/-- The pair field, bits 5:4 of an opcode, which are the upper two bits of `yyy` (R81). -/
def pairField (y : BitVec 3) : Nat := (y.extractLsb' 1 2).toNat

/-- The bit `q`, bit 3 of an opcode, the lowest of `yyy` (R81). -/
def qBit (y : BitVec 3) : Bool := y.getLsbD 0

/-- An opcode byte from its three fields (R81). -/
def opcodeOf (g : BitVec 2) (y z : BitVec 3) : Byte := g ++ y ++ z

/-! ### Field codes -/

/-- R22, R84: the code of a register. -/
def Reg.code : Reg → BitVec 3
  | .b => 0 | .c => 1 | .d => 2 | .e => 3 | .h => 4 | .l => 5 | .a => 7

/-- R84: the code of an 8-bit operand; M is 110. -/
def RegM.code : RegM → BitVec 3
  | .reg r => r.code
  | .m => 6

/-- R84, read from a code. -/
def RegM.ofCode (y : BitVec 3) : RegM :=
  match y.toNat with
  | 0 => .reg .b
  | 1 => .reg .c
  | 2 => .reg .d
  | 3 => .reg .e
  | 4 => .reg .h
  | 5 => .reg .l
  | 6 => .m
  | _ => .reg .a

/-- R85: the code `pp`. -/
def Pair.code : Pair → BitVec 2
  | .bc => 0 | .de => 1 | .hl => 2 | .sp => 3

/-- R85, read from a code. -/
def Pair.ofCode (n : Nat) : Pair :=
  match n with
  | 0 => .bc
  | 1 => .de
  | 2 => .hl
  | _ => .sp

/-- R86: the code `qq`. -/
def StackPair.code : StackPair → BitVec 2
  | .bc => 0 | .de => 1 | .hl => 2 | .psw => 3

/-- R86, read from a code. -/
def StackPair.ofCode (n : Nat) : StackPair :=
  match n with
  | 0 => .bc
  | 1 => .de
  | 2 => .hl
  | _ => .psw

/-- R85: bit 4 of LDAX and STAX. -/
def PtrPair.code : PtrPair → BitVec 2
  | .bc => 0 | .de => 1

/-- R87: the condition code `ccc`. -/
def Cond.code : Cond → BitVec 3
  | .nz => 0 | .z => 1 | .nc => 2 | .c => 3 | .po => 4 | .pe => 5 | .p => 6 | .m => 7

/-- R92: the opcode byte of an undefined opcode. -/
def UndefOp.code : UndefOp → Byte
  | .x08 => 0x08 | .x10 => 0x10 | .x18 => 0x18 | .x20 => 0x20 | .x28 => 0x28 | .x30 => 0x30 | .x38 => 0x38
  | .xCB => 0xCB | .xD9 => 0xD9 | .xDD => 0xDD | .xED => 0xED | .xFD => 0xFD

/-! ### Lengths -/

/-- R90: the two-byte opcodes. -/
def twoByteOpcodes : List Byte :=
  [0x06, 0x0E, 0x16, 0x1E, 0x26, 0x2E, 0x36, 0x3E, 0xC6, 0xCE, 0xD6, 0xDE, 0xE6, 0xEE, 0xF6, 0xFE, 0xD3, 0xDB]

/-- R90: the three-byte opcodes under `nop`. -/
def threeByteCommon : List Byte :=
  [0x01, 0x11, 0x21, 0x31, 0x22, 0x2A, 0x32, 0x3A, 0xC3, 0xC2, 0xCA, 0xD2, 0xDA, 0xE2, 0xEA, 0xF2, 0xFA, 0xCD,
   0xC4, 0xCC, 0xD4, 0xDC, 0xE4, 0xEC, 0xF4, 0xFC]

/-- R90: the three-byte opcodes. Under `alias` four undefined ones join them. -/
def threeByteOpcodes (pol : UndefPolicy) : List Byte :=
  match pol with
  | .nop => threeByteCommon
  | .aliased => threeByteCommon ++ [0xCB, 0xDD, 0xED, 0xFD]

/-- The length of the instruction an opcode byte starts (R80, R90, R92): the byte and the policy alone fix it. -/
def lengthOf (pol : UndefPolicy) (op : Byte) : Nat :=
  if op ∈ twoByteOpcodes then 2 else if op ∈ threeByteOpcodes pol then 3 else 1

/-! ### The opcode map (R89), by group and field -/

/-- R92: an undefined opcode that is `*NOP` under both policies, from its field `yyy` (1 to 7). -/
def undefOfRow0 (y : BitVec 3) : UndefOp :=
  match y.toNat with
  | 1 => .x08
  | 2 => .x10
  | 3 => .x18
  | 4 => .x20
  | 5 => .x28
  | 6 => .x30
  | _ => .x38

/-- R92, R327: the four-way choice of an undefined opcode by the policy. -/
def undefByPolicy (pol : UndefPolicy) (u : UndefOp) (whenAliased : Instr) : Instr :=
  match pol with
  | .nop => .starNop u
  | .aliased => whenAliased

/-- R272: Jcc by its condition code. -/
def jccOf (ccc : BitVec 3) (w : Word) : Instr :=
  match ccc.toNat with
  | 0 => .jnz w
  | 1 => .jz w
  | 2 => .jnc w
  | 3 => .jc w
  | 4 => .jpo w
  | 5 => .jpe w
  | 6 => .jp w
  | _ => .jm w

/-- R274: Ccc by its condition code. -/
def cccOf (ccc : BitVec 3) (w : Word) : Instr :=
  match ccc.toNat with
  | 0 => .cnz w
  | 1 => .cz w
  | 2 => .cnc w
  | 3 => .cc w
  | 4 => .cpo w
  | 5 => .cpe w
  | 6 => .cp w
  | _ => .cm w

/-- R276: Rcc by its condition code. -/
def rccOf (ccc : BitVec 3) : Instr :=
  match ccc.toNat with
  | 0 => .rnz
  | 1 => .rz
  | 2 => .rnc
  | 3 => .rc
  | 4 => .rpo
  | 5 => .rpe
  | 6 => .rp
  | _ => .rm

/-- R88: the register form of an ALU operation `aaa`. -/
def aluOf (aaa : BitVec 3) (x : RegM) : Instr :=
  match aaa.toNat with
  | 0 => .add x
  | 1 => .adc x
  | 2 => .sub x
  | 3 => .sbb x
  | 4 => .ana x
  | 5 => .xra x
  | 6 => .ora x
  | _ => .cmp x

/-- R88: the immediate form of an ALU operation `aaa`. -/
def aluImmOf (aaa : BitVec 3) (d8 : Byte) : Instr :=
  match aaa.toNat with
  | 0 => .adi d8
  | 1 => .aci d8
  | 2 => .sui d8
  | 3 => .sbi d8
  | 4 => .ani d8
  | 5 => .xri d8
  | 6 => .ori d8
  | _ => .cpi d8

/-- Row 0x to 3x of the map, column x2 or xA: the memory forms of A and HL. -/
def directOf (y : BitVec 3) (w : Word) : Instr :=
  match y.toNat with
  | 0 => .stax .bc
  | 1 => .ldax .bc
  | 2 => .stax .de
  | 3 => .ldax .de
  | 4 => .shld w
  | 5 => .lhld w
  | 6 => .sta w
  | _ => .lda w

/-- Row 0x to 3x of the map, column x7 or xF. -/
def accOf (y : BitVec 3) : Instr :=
  match y.toNat with
  | 0 => .rlc
  | 1 => .rrc
  | 2 => .ral
  | 3 => .rar
  | 4 => .daa
  | 5 => .cma
  | 6 => .stc
  | _ => .cmc

/-- Group 00: rows 0x to 3x. -/
def decodeGroup0 (y z : BitVec 3) (d8 : Byte) (w : Word) : Instr :=
  match z.toNat with
  | 0 => if y = 0 then .nop else .starNop (undefOfRow0 y)
  | 1 => if qBit y then .dad (Pair.ofCode (pairField y)) else .lxi (Pair.ofCode (pairField y)) w
  | 2 => directOf y w
  | 3 => if qBit y then .dcx (Pair.ofCode (pairField y)) else .inx (Pair.ofCode (pairField y))
  | 4 => .inr (RegM.ofCode y)
  | 5 => .dcr (RegM.ofCode y)
  | 6 => .mvi (RegM.ofCode y) d8
  | _ => accOf y

/-- Group 01: rows 4x to 7x, MOV, with HLT in the M,M slot (R171 to R173, R325). -/
def decodeGroup1 (y z : BitVec 3) : Instr :=
  match RegM.ofCode y, RegM.ofCode z with
  | .reg dst, .reg src => .movRR dst src
  | .reg dst, .m => .movRM dst
  | .m, .reg src => .movMR src
  | .m, .m => .hlt

/-- Rows Cx to Fx, column x9: RET, 0xD9, PCHL, SPHL. -/
def column9Of (pol : UndefPolicy) (y : BitVec 3) : Instr :=
  match pairField y with
  | 0 => .ret
  | 1 => undefByPolicy pol .xD9 .starRet
  | 2 => .pchl
  | _ => .sphl

/-- Rows Cx to Fx, columns x3 and xB. -/
def column3Of (pol : UndefPolicy) (y : BitVec 3) (d8 : Byte) (w : Word) : Instr :=
  match y.toNat with
  | 0 => .jmp w
  | 1 => undefByPolicy pol .xCB (.starJmp w)
  | 2 => .out d8
  | 3 => .inp d8
  | 4 => .xthl
  | 5 => .xchg
  | 6 => .di
  | _ => .ei

/-- Rows Cx to Fx, column xD: CALL and the undefined 0xDD, 0xED, 0xFD. -/
def columnDOf (pol : UndefPolicy) (y : BitVec 3) (w : Word) : Instr :=
  match pairField y with
  | 0 => .call w
  | 1 => undefByPolicy pol .xDD (.starCall .xDD w)
  | 2 => undefByPolicy pol .xED (.starCall .xED w)
  | _ => undefByPolicy pol .xFD (.starCall .xFD w)

/-- Group 11: rows Cx to Fx. -/
def decodeGroup3 (pol : UndefPolicy) (y z : BitVec 3) (d8 : Byte) (w : Word) : Instr :=
  match z.toNat with
  | 0 => rccOf y
  | 1 => if qBit y then column9Of pol y else .pop (StackPair.ofCode (pairField y))
  | 2 => jccOf y w
  | 3 => column3Of pol y d8 w
  | 4 => cccOf y w
  | 5 => if qBit y then columnDOf pol y w else .push (StackPair.ofCode (pairField y))
  | 6 => aluImmOf y d8
  | _ => .rst y

/-- The instruction of an opcode byte and the two bytes after it (R83, R89): d8 is byte 2, d16 is byte3:byte2. It is
total: every opcode value has a meaning (R93). -/
def decodeOp (pol : UndefPolicy) (op byte2 byte3 : Byte) : Instr :=
  match groupOf op with
  | 0 => decodeGroup0 (yOf op) (zOf op) byte2 (wordOf byte3 byte2)
  | 1 => decodeGroup1 (yOf op) (zOf op)
  | 2 => aluOf (yOf op) (RegM.ofCode (zOf op))
  | _ => decodeGroup3 pol (yOf op) (zOf op) byte2 (wordOf byte3 byte2)

/-! ### Descriptors -/

/-- The length of an instruction in bytes (R80, R82). -/
def Instr.length : Instr → Nat
  | .lxi _ _ | .lda _ | .sta _ | .lhld _ | .shld _ => 3
  | .jmp _ | .jnz _ | .jz _ | .jnc _ | .jc _ | .jpo _ | .jpe _ | .jp _ | .jm _ => 3
  | .call _ | .cnz _ | .cz _ | .cnc _ | .cc _ | .cpo _ | .cpe _ | .cp _ | .cm _ => 3
  | .starJmp _ | .starCall _ _ => 3
  | .mvi _ _ | .adi _ | .aci _ | .sui _ | .sbi _ | .cpi _ | .ani _ | .xri _ | .ori _ | .inp _ | .out _ => 2
  | .movRR _ _ | .movRM _ | .movMR _ | .ldax _ | .stax _ | .xchg => 1
  | .add _ | .adc _ | .sub _ | .sbb _ | .cmp _ | .ana _ | .xra _ | .ora _ => 1
  | .inr _ | .dcr _ | .inx _ | .dcx _ | .dad _ | .daa => 1
  | .rlc | .rrc | .ral | .rar | .cma | .cmc | .stc => 1
  | .ret | .rnz | .rz | .rnc | .rc | .rpo | .rpe | .rp | .rm | .rst _ | .pchl => 1
  | .push _ | .pop _ | .xthl | .sphl | .ei | .di | .hlt | .nop | .starNop _ | .starRet => 1

/-- The operand class of an instruction (R91). -/
def Instr.operandClass : Instr → OperandClass
  | .lxi _ _ | .lda _ | .sta _ | .lhld _ | .shld _ => .imm16
  | .jmp _ | .jnz _ | .jz _ | .jnc _ | .jc _ | .jpo _ | .jpe _ | .jp _ | .jm _ => .imm16
  | .call _ | .cnz _ | .cz _ | .cnc _ | .cc _ | .cpo _ | .cpe _ | .cp _ | .cm _ => .imm16
  | .starJmp _ | .starCall _ _ => .imm16
  | .mvi _ _ | .adi _ | .aci _ | .sui _ | .sbi _ | .cpi _ | .ani _ | .xri _ | .ori _ | .inp _ | .out _ => .imm8
  | .movRR _ _ | .movRM _ | .movMR _ | .ldax _ | .stax _ => .regImplied
  | .add _ | .adc _ | .sub _ | .sbb _ | .cmp _ | .ana _ | .xra _ | .ora _ => .regImplied
  | .inr _ | .dcr _ | .inx _ | .dcx _ | .dad _ | .push _ | .pop _ => .regImplied
  | .rnz | .rz | .rnc | .rc | .rpo | .rpe | .rp | .rm | .rst _ => .regImplied
  | .xchg | .daa | .rlc | .rrc | .ral | .rar | .cma | .cmc | .stc | .ret | .pchl | .xthl | .sphl => .none
  | .ei | .di | .hlt | .nop | .starNop _ | .starRet => .none

/-- The mnemonic of an instruction, spelled as opcode_table.json spells it, with the `alias_policy` spellings for the
undefined opcodes under `alias` (R98, R99). -/
def Instr.mnemonic : Instr → String
  | .movRR _ _ => "MOV"
  | .movRM _ => "MOV"
  | .movMR _ => "MOV"
  | .mvi _ _ => "MVI"
  | .lxi _ _ => "LXI"
  | .lda _ => "LDA"
  | .sta _ => "STA"
  | .lhld _ => "LHLD"
  | .shld _ => "SHLD"
  | .ldax _ => "LDAX"
  | .stax _ => "STAX"
  | .xchg => "XCHG"
  | .add _ => "ADD"
  | .adi _ => "ADI"
  | .adc _ => "ADC"
  | .aci _ => "ACI"
  | .sub _ => "SUB"
  | .sui _ => "SUI"
  | .sbb _ => "SBB"
  | .sbi _ => "SBI"
  | .inr _ => "INR"
  | .dcr _ => "DCR"
  | .inx _ => "INX"
  | .dcx _ => "DCX"
  | .dad _ => "DAD"
  | .daa => "DAA"
  | .cmp _ => "CMP"
  | .cpi _ => "CPI"
  | .ana _ => "ANA"
  | .ani _ => "ANI"
  | .xra _ => "XRA"
  | .xri _ => "XRI"
  | .ora _ => "ORA"
  | .ori _ => "ORI"
  | .rlc => "RLC"
  | .rrc => "RRC"
  | .ral => "RAL"
  | .rar => "RAR"
  | .cma => "CMA"
  | .cmc => "CMC"
  | .stc => "STC"
  | .jmp _ => "JMP"
  | .jnz _ => "JNZ"
  | .jz _ => "JZ"
  | .jnc _ => "JNC"
  | .jc _ => "JC"
  | .jpo _ => "JPO"
  | .jpe _ => "JPE"
  | .jp _ => "JP"
  | .jm _ => "JM"
  | .call _ => "CALL"
  | .cnz _ => "CNZ"
  | .cz _ => "CZ"
  | .cnc _ => "CNC"
  | .cc _ => "CC"
  | .cpo _ => "CPO"
  | .cpe _ => "CPE"
  | .cp _ => "CP"
  | .cm _ => "CM"
  | .ret => "RET"
  | .rnz => "RNZ"
  | .rz => "RZ"
  | .rnc => "RNC"
  | .rc => "RC"
  | .rpo => "RPO"
  | .rpe => "RPE"
  | .rp => "RP"
  | .rm => "RM"
  | .rst _ => "RST"
  | .pchl => "PCHL"
  | .push _ => "PUSH"
  | .pop _ => "POP"
  | .xthl => "XTHL"
  | .sphl => "SPHL"
  | .inp _ => "IN"
  | .out _ => "OUT"
  | .ei => "EI"
  | .di => "DI"
  | .hlt => "HLT"
  | .nop => "NOP"
  | .starNop _ => "*NOP"
  | .starJmp _ => "*JMP"
  | .starRet => "*RET"
  | .starCall _ _ => "*CALL"

/-- An instruction descriptor (00_scope.md R14), less its execution rule, which is `Machine.exec` of the instruction. -/
structure Descriptor where
  opcode : Byte
  length : Nat
  operandClass : OperandClass
  mnemonic : String
  deriving DecidableEq, Repr

/-- The opcode table as a total function (R93): the descriptor of an opcode byte. -/
def lookup (pol : UndefPolicy) (op : Byte) : Descriptor :=
  { opcode := op
    length := lengthOf pol op
    operandClass := (decodeOp pol op 0 0).operandClass
    mnemonic := (decodeOp pol op 0 0).mnemonic }

/-! ### The decoder -/

/-- R95 on the bytes from the cursor on: the instruction and the bytes after it. Its only failure is a stream that ends
before the instruction does (R96); it changes nothing (R97). -/
def decode (pol : UndefPolicy) : List Byte → Decoded (Instr × List Byte)
  | [] => .error .incompleteInstruction
  | op :: rest =>
    if (op :: rest).length < lengthOf pol op then .error .incompleteInstruction
    else .ok (decodeOp pol op (rest.getD 0 0) (rest.getD 1 0), (op :: rest).drop (lengthOf pol op))

/-- `decode(stream, cursor)` of R95: the descriptor, the operand bytes and the next cursor. -/
def decodeAt (pol : UndefPolicy) (stream : List Byte) (cursor : Nat) :
    Decoded (Descriptor × List Byte × Nat) :=
  match stream.drop cursor with
  | [] => .error .incompleteInstruction
  | op :: rest =>
    if cursor + lengthOf pol op > stream.length then .error .incompleteInstruction
    else .ok (lookup pol op, rest.take (lengthOf pol op - 1), cursor + lengthOf pol op)

/-! ### The encoder -/

/-- The bytes of a three-byte instruction: the opcode, then the word low byte first (R82, R83). -/
def withWord (op : Byte) (w : Word) : List Byte := [op, loByte w, hiByte w]

/-- The bytes of an instruction, from the formats of R82. The block has no assembler (R101): this serves statements
about the decoder only (log 14). -/
def encode : Instr → List Byte
  | .movRR dst src => [opcodeOf 1 dst.code src.code]
  | .movRM dst => [opcodeOf 1 dst.code 6]
  | .movMR src => [opcodeOf 1 6 src.code]
  | .mvi dst d8 => [opcodeOf 0 dst.code 6, d8]
  | .lxi rp d16 => withWord (opcodeOf 0 (rp.code ++ 0#1) 1) d16
  | .lda a16 => withWord 0x3A a16
  | .sta a16 => withWord 0x32 a16
  | .lhld a16 => withWord 0x2A a16
  | .shld a16 => withWord 0x22 a16
  | .ldax rp => [opcodeOf 0 (rp.code ++ 1#1) 2]
  | .stax rp => [opcodeOf 0 (rp.code ++ 0#1) 2]
  | .xchg => [0xEB]
  | .add x => [opcodeOf 2 0 x.code]
  | .adi d8 => [0xC6, d8]
  | .adc x => [opcodeOf 2 1 x.code]
  | .aci d8 => [0xCE, d8]
  | .sub x => [opcodeOf 2 2 x.code]
  | .sui d8 => [0xD6, d8]
  | .sbb x => [opcodeOf 2 3 x.code]
  | .sbi d8 => [0xDE, d8]
  | .inr x => [opcodeOf 0 x.code 4]
  | .dcr x => [opcodeOf 0 x.code 5]
  | .inx rp => [opcodeOf 0 (rp.code ++ 0#1) 3]
  | .dcx rp => [opcodeOf 0 (rp.code ++ 1#1) 3]
  | .dad rp => [opcodeOf 0 (rp.code ++ 1#1) 1]
  | .daa => [0x27]
  | .cmp x => [opcodeOf 2 7 x.code]
  | .cpi d8 => [0xFE, d8]
  | .ana x => [opcodeOf 2 4 x.code]
  | .ani d8 => [0xE6, d8]
  | .xra x => [opcodeOf 2 5 x.code]
  | .xri d8 => [0xEE, d8]
  | .ora x => [opcodeOf 2 6 x.code]
  | .ori d8 => [0xF6, d8]
  | .rlc => [0x07]
  | .rrc => [0x0F]
  | .ral => [0x17]
  | .rar => [0x1F]
  | .cma => [0x2F]
  | .cmc => [0x3F]
  | .stc => [0x37]
  | .jmp a16 => withWord 0xC3 a16
  | .jnz a16 => withWord (opcodeOf 3 Cond.nz.code 2) a16
  | .jz a16 => withWord (opcodeOf 3 Cond.z.code 2) a16
  | .jnc a16 => withWord (opcodeOf 3 Cond.nc.code 2) a16
  | .jc a16 => withWord (opcodeOf 3 Cond.c.code 2) a16
  | .jpo a16 => withWord (opcodeOf 3 Cond.po.code 2) a16
  | .jpe a16 => withWord (opcodeOf 3 Cond.pe.code 2) a16
  | .jp a16 => withWord (opcodeOf 3 Cond.p.code 2) a16
  | .jm a16 => withWord (opcodeOf 3 Cond.m.code 2) a16
  | .call a16 => withWord 0xCD a16
  | .cnz a16 => withWord (opcodeOf 3 Cond.nz.code 4) a16
  | .cz a16 => withWord (opcodeOf 3 Cond.z.code 4) a16
  | .cnc a16 => withWord (opcodeOf 3 Cond.nc.code 4) a16
  | .cc a16 => withWord (opcodeOf 3 Cond.c.code 4) a16
  | .cpo a16 => withWord (opcodeOf 3 Cond.po.code 4) a16
  | .cpe a16 => withWord (opcodeOf 3 Cond.pe.code 4) a16
  | .cp a16 => withWord (opcodeOf 3 Cond.p.code 4) a16
  | .cm a16 => withWord (opcodeOf 3 Cond.m.code 4) a16
  | .ret => [0xC9]
  | .rnz => [opcodeOf 3 Cond.nz.code 0]
  | .rz => [opcodeOf 3 Cond.z.code 0]
  | .rnc => [opcodeOf 3 Cond.nc.code 0]
  | .rc => [opcodeOf 3 Cond.c.code 0]
  | .rpo => [opcodeOf 3 Cond.po.code 0]
  | .rpe => [opcodeOf 3 Cond.pe.code 0]
  | .rp => [opcodeOf 3 Cond.p.code 0]
  | .rm => [opcodeOf 3 Cond.m.code 0]
  | .rst n => [opcodeOf 3 n 7]
  | .pchl => [0xE9]
  | .push rp => [opcodeOf 3 (rp.code ++ 0#1) 5]
  | .pop rp => [opcodeOf 3 (rp.code ++ 0#1) 1]
  | .xthl => [0xE3]
  | .sphl => [0xF9]
  | .inp port => [0xDB, port]
  | .out port => [0xD3, port]
  | .ei => [0xFB]
  | .di => [0xF3]
  | .hlt => [0x76]
  | .nop => [0x00]
  | .starNop u => [u.code]
  | .starJmp a16 => withWord 0xCB a16
  | .starRet => [0xD9]
  | .starCall u a16 => withWord u.code a16

/-! ### The host's reading of a table word -/

/-- The first three bytes of an instruction whose bits, numbered as spec/opcode_table.json numbers them, are `w`: the
first byte is bits 7..0, the second bits 15..8, the third bits 23..16; bits from `nbits` up are 0. -/
def tableBytes (nbits w : Nat) : List Byte :=
  let v := w % 2 ^ nbits
  [BitVec.ofNat 8 v, BitVec.ofNat 8 (v / 256), BitVec.ofNat 8 (v / 65536)]

/-- The instruction the decoder reads from a table word, under the default UNDEF_POLICY, which is the one the table is
written for (R89, R92). -/
def decodeTableWord (nbits w : Nat) : Option Instr :=
  match decode .nop (tableBytes nbits w) with
  | .ok (i, _) => some i
  | .error _ => none

end Sys2Proof
end

