-- ==== Sys2Proof/Machine/State.lean ====
section
/-! DEFINITION. The architectural state (10_state.md R20), the port log (20_memory.md R65, 40_execution_cycle.md R130),
the parameters of the step held as plain data (log 1), the reasons a step can stop, and the state right after reset. -/

namespace Sys2Proof.Machine

/-- The seven general registers (10_state.md R21). A pair is a view over two of them (R23). -/
structure Regs where
  a : Byte
  b : Byte
  c : Byte
  d : Byte
  e : Byte
  h : Byte
  l : Byte
  deriving DecidableEq, Repr

/-- The five flags (10_state.md R27, R28). Only these five bits are stored. -/
structure Flags where
  s : Bool
  z : Bool
  ac : Bool
  p : Bool
  cy : Bool
  deriving DecidableEq, Repr

/-- The run state (10_state.md R30, 40_execution_cycle.md R120). -/
inductive RunState
  | running
  | halted
  | faulted (reason : FaultReason)
  deriving DecidableEq, Repr

/-- Memory (20_memory.md R50) as (index, byte) pairs: indexes strictly rising, and no entry equal to what an unlisted
index reads as. `Memory.wf` of Ops says so. -/
abbrev Memory := List Host.Cell

/-- The whole state. -/
structure State where
  regs : Regs
  flags : Flags
  /-- The stack pointer (R25). -/
  sp : Word
  /-- The program counter (R26). While an instruction executes it holds `next_pc` (R124). -/
  pc : Word
  /-- INTE, the interrupt-enable flag (R29). No rule reads it. -/
  inte : Bool
  run : RunState
  mem : Memory
  /-- The parameters of the step (00_scope.md R7). No step changes them. -/
  params : Params
  /-- The port reads and writes made so far, oldest first (R65, R130). -/
  portLog : List PortEvent
  /-- How many draws of a flag were made (41_alu_flags.md R157). The model's own field (log 7). -/
  drawCount : Nat
  deriving DecidableEq, Repr

/-- Why no step is defined in a state (40_execution_cycle.md R127). `IncompleteInstruction` itself is not here: the spec
describes it as a change of the run state, so it is a next state (log 9). -/
inductive Fault
  /-- Raised by `step` in the terminal state `Halted`. Safe: the spec defines no step there (R127, I23). -/
  | stepInHalted
  /-- Raised by `step` in the terminal state `Faulted(reason)`. Safe: the spec defines no step there (R127, I23). -/
  | stepInFaulted (reason : FaultReason)
  deriving DecidableEq, Repr

/-- Why a request is refused. -/
inductive Refusal
  /-- An instruction without a meaning, raised by its arm of `exec` only. Safe. No arm answers it: every instruction has
  its meaning. -/
  | notModelled (mnemonic : String)
  /-- Raised by `startOfRun` when IMAGE_LEN > MEM_SIZE (20_memory.md R62): no run starts. Safe. -/
  | imageTooLarge
  /-- Raised by `startOfRun` when MEM_SIZE is not in 1..65536 (00_scope.md R7): no such block exists. Safe. -/
  | memSizeOutOfRange
  deriving DecidableEq, Repr

/-- What an instruction or a step answers. -/
abbrev Result := Host.Outcome State Fault Refusal

/-- The machine right after reset, with the default parameters and no image loaded (log 4): run state, pc = ENTRY,
INTE and the port log as 70_reset_and_hazards.md R381 says. A to L, the flags and SP are INIT in the spec, any value;
the zeros here are a DESIGN CHOICE, unsafe (log 2). `startOfRun` (Boot) takes them as an argument. -/
def State.reset : State :=
  { regs := { a := 0x00, b := 0x00, c := 0x00, d := 0x00, e := 0x00, h := 0x00, l := 0x00 }
    flags := { s := false, z := false, ac := false, p := false, cy := false }
    sp := 0x0000
    pc := 0x0000
    inte := false
    run := .running
    mem := []
    params := {}
    portLog := []
    drawCount := 0 }

end Sys2Proof.Machine
end

