-- ==== Sys2Proof/Machine/Ops.lean ====
section
/-! DEFINITION. The named operations over registers, memory, the stack, the ports and the run state: every read or
write of a piece of state goes through one of these. -/

namespace Sys2Proof.Machine

/-! ### Memory as a canonical list -/

/-- The byte at an index. -/
def Memory.read (m : Memory) (k : Nat) : Byte :=
  match m with
  | [] => Config.unlistedByte
  | (k', v) :: rest => if k' = k then v else Memory.read rest k

/-- The entry of an index, or none where the byte is the unlisted one. -/
def Memory.entry (k : Nat) (v : Byte) : Memory :=
  if v = Config.unlistedByte then [] else [(k, v)]

/-- Memory with the byte at an index replaced. It keeps the canonical form. -/
def Memory.write (m : Memory) (k : Nat) (v : Byte) : Memory :=
  match m with
  | [] => Memory.entry k v
  | (k', v') :: rest =>
    if k < k' then Memory.entry k v ++ (k', v') :: rest
    else if k = k' then Memory.entry k v ++ rest
    else (k', v') :: Memory.write rest k v

/-- The canonical form from an index on: indexes strictly rising from `lo`, no entry with the unlisted byte. -/
def Memory.wfFrom (lo : Nat) (m : Memory) : Bool :=
  match m with
  | [] => true
  | (k, v) :: rest => decide (lo ≤ k) && decide (v ≠ Config.unlistedByte) && Memory.wfFrom (k + 1) rest

/-- The canonical form: equal memories are equal lists. -/
def Memory.wf (m : Memory) : Bool := Memory.wfFrom 0 m

/-- Every listed index lies below the capacity (20_memory.md R50). -/
def Memory.below (n : Nat) (m : Memory) : Bool := m.all (fun cell => decide (cell.1 < n))

/-! ### Memory accesses (20_memory.md R51 to R55) -/

/-- R51: `phys(a) = (a mod 2^16) mod MEM_SIZE`. No address faults. -/
def State.phys (s : State) (a : Word) : Nat := a.toNat % s.params.memSize

/-- R52: `MemRead(a, 1)`. -/
def State.memRead (s : State) (a : Word) : Byte := Memory.read s.mem (s.phys a)

/-- R53: `MemWrite(a, 1, v)`. -/
def State.memWrite (s : State) (a : Word) (v : Byte) : State :=
  { s with mem := Memory.write s.mem (s.phys a) v }

/-- R54: `MemRead(a, 2)`, little-endian, the second address wrapping at 16 bits. -/
def State.memRead16 (s : State) (a : Word) : Word := wordOf (s.memRead (a + 1)) (s.memRead a)

/-- R55: `MemWrite(a, 2, v)`, low byte first. -/
def State.memWrite16 (s : State) (a : Word) (v : Word) : State :=
  (s.memWrite a (loByte v)).memWrite (a + 1) (hiByte v)

/-- Bytes written at consecutive addresses, first byte first: the image load of R62. -/
def State.loadBytes (s : State) (a : Word) : List Byte → State
  | [] => s
  | v :: rest => (s.memWrite a v).loadBytes (a + 1) rest

/-! ### Registers, pairs, flags and the other cells -/

/-- `X[r]` (00_scope.md R10). -/
def State.readReg (s : State) : Reg → Byte
  | .a => s.regs.a
  | .b => s.regs.b
  | .c => s.regs.c
  | .d => s.regs.d
  | .e => s.regs.e
  | .h => s.regs.h
  | .l => s.regs.l

/-- The register file with one register replaced. -/
def Regs.set (rs : Regs) (r : Reg) (v : Byte) : Regs :=
  match r with
  | .a => { rs with a := v }
  | .b => { rs with b := v }
  | .c => { rs with c := v }
  | .d => { rs with d := v }
  | .e => { rs with e := v }
  | .h => { rs with h := v }
  | .l => { rs with l := v }

/-- `X[r] <- v` (00_scope.md R10). -/
def State.writeReg (s : State) (r : Reg) (v : Byte) : State := { s with regs := s.regs.set r v }

/-- `F <- f`: the five flags at once. -/
def State.setFlags (s : State) (f : Flags) : State := { s with flags := f }

/-- `SP <- v`. -/
def State.setSp (s : State) (v : Word) : State := { s with sp := v }

/-- `pc <- v`. -/
def State.setPc (s : State) (v : Word) : State := { s with pc := v }

/-- `INTE <- v` (10_state.md R29). -/
def State.setInte (s : State) (v : Bool) : State := { s with inte := v }

/-- `run <- r` (10_state.md R30). -/
def State.setRun (s : State) (r : RunState) : State := { s with run := r }

/-- `PAIR(BC)` (10_state.md R23): the first-named register is the high byte. -/
def State.bc (s : State) : Word := wordOf s.regs.b s.regs.c

/-- `PAIR(DE)` (10_state.md R23). -/
def State.de (s : State) : Word := wordOf s.regs.d s.regs.e

/-- `PAIR(HL)` (10_state.md R23). -/
def State.hl (s : State) : Word := wordOf s.regs.h s.regs.l

/-- `PAIR(BC) <- v` (10_state.md R23). -/
def State.setBc (s : State) (v : Word) : State := (s.writeReg .b (hiByte v)).writeReg .c (loByte v)

/-- `PAIR(DE) <- v` (10_state.md R23). -/
def State.setDe (s : State) (v : Word) : State := (s.writeReg .d (hiByte v)).writeReg .e (loByte v)

/-- `PAIR(HL) <- v` (10_state.md R23). -/
def State.setHl (s : State) (v : Word) : State := (s.writeReg .h (hiByte v)).writeReg .l (loByte v)

/-! ### Stack primitives (20_memory.md R56) -/

/-- One byte pushed: SP is decremented first. -/
def State.push8 (s : State) (v : Byte) : State := (s.setSp (s.sp - 1)).memWrite (s.sp - 1) v

/-- R56: `Push16(v)`, the high byte first, at the higher address. -/
def State.push16 (s : State) (v : Word) : State := (s.push8 (hiByte v)).push8 (loByte v)

/-- R56: the value of `Pop16()`, low byte at SP, high byte at SP + 1. -/
def State.top16 (s : State) : Word := wordOf (s.memRead (s.sp + 1)) (s.memRead s.sp)

/-- R56: `Pop16()`'s effect on SP. -/
def State.dropTop16 (s : State) : State := s.setSp (s.sp + 2)

/-! ### Ports (20_memory.md R63 to R65) -/

/-- Whether an event is a read. -/
def PortEvent.isRead : PortEvent → Bool
  | .read _ => true
  | .write _ _ => false

/-- How many reads the handler has answered so far. -/
def State.readCount (s : State) : Nat := s.portLog.countP PortEvent.isRead

/-- R64: `PortRead(port)`'s value. A handler's answer is one of the answers it names, in call order, or a free value
(R65, log 6); without a handler it is PORT_SENTINEL (log 5). -/
def State.portAnswer (s : State) (port : Byte) : Byte :=
  match s.params.portHandler with
  | .absent => Config.portSentinel
  | .present answers =>
    match answers[s.readCount]? with
    | some v => v
    | none => Config.portAnswer s.portLog port

/-- R64, R65: one call of the handler, recorded; nothing happens where there is none. -/
def State.callPort (s : State) (e : PortEvent) : State :=
  match s.params.portHandler with
  | .absent => s
  | .present _ => { s with portLog := s.portLog ++ [e] }

/-! ### The one fault (40_execution_cycle.md R123) -/

/-- `raise r`: the run state becomes `Faulted(r)` and nothing else changes, pc among it (R123, R350). This is all the
block has of taking an exception: no state is saved and no vector read (60_exceptions.md R356). There is no return from
it (R357), so no operation stands beside it. -/
def State.raise (s : State) (r : FaultReason) : State := s.setRun (.faulted r)

/-! ### Fetch (40_execution_cycle.md R121 to R124) -/

/-- R121: whether an instruction byte may be fetched from an address. -/
def State.inWindow (s : State) (a : Word) : Bool :=
  match s.params.fetchWindow with
  | .memory => true
  | .image => decide ((a - s.params.base).toNat < s.params.imageLen)

/-- The bytes the fetch can read from an address on, at most `n`, up to the first that lies outside the window. -/
def State.windowBytes (s : State) (a : Word) (n : Nat) : List Byte :=
  match n with
  | 0 => []
  | n + 1 => if s.inWindow a then s.memRead a :: s.windowBytes (a + 1) n else []

/-- The bytes of the stream at pc, as many as the longest instruction has (R122, R123, R80). -/
def State.fetchBytes (s : State) : List Byte := s.windowBytes s.pc 3

/-- R122, R123: the instruction at pc, or the fault of a fetch that leaves the window. -/
def State.fetch (s : State) : Decoded Instr :=
  match decode s.params.undefPolicy s.fetchBytes with
  | .ok (i, _) => .ok i
  | .error r => .error r

/-- R124: pc moves past an instruction of the given length, before its effect. -/
def State.advancePc (s : State) (len : Nat) : State := s.setPc (s.pc + BitVec.ofNat 16 len)

/-- The state with the three bytes of a table word loaded as the program image at pc, so that the next step fetches
them: the load that a caller makes before a run (20_memory.md R62), done at pc (log 4). -/
def State.loadAtPc (s : State) (nbits w : Nat) : State :=
  { s.loadBytes s.pc (tableBytes nbits w) with
    params := { s.params with base := s.pc, imageLen := 3 }
    run := .running }

end Sys2Proof.Machine
end

