-- ==== Sys2Proof/Machine/Operands.lean ====
section
/-! DEFINITION. The operand forms of 30_encoding.md R84 to R88 read and written over the state. -/

namespace Sys2Proof.Machine

/-- R84: the value of an 8-bit operand. M is the memory byte at HL. -/
def State.readRM (s : State) : RegM → Byte
  | .reg r => s.readReg r
  | .m => s.memRead s.hl

/-- R84: an 8-bit operand written. -/
def State.writeRM (s : State) (x : RegM) (v : Byte) : State :=
  match x with
  | .reg r => s.writeReg r v
  | .m => s.memWrite s.hl v

/-- R85: the value of a `pp` operand. -/
def State.readPair (s : State) : Pair → Word
  | .bc => s.bc
  | .de => s.de
  | .hl => s.hl
  | .sp => s.sp

/-- R85: a `pp` operand written. -/
def State.writePair (s : State) (p : Pair) (v : Word) : State :=
  match p with
  | .bc => s.setBc v
  | .de => s.setDe v
  | .hl => s.setHl v
  | .sp => s.setSp v

/-- R85: the address LDAX and STAX use. -/
def State.ptr (s : State) : PtrPair → Word
  | .bc => s.bc
  | .de => s.de

/-- 10_state.md R27: `PackF()`, the flag byte S Z 0 AC 0 P 1 CY. -/
def Flags.pack (f : Flags) : Byte :=
  BitVec.ofBool f.s ++ BitVec.ofBool f.z ++ 0#1 ++ BitVec.ofBool f.ac ++ 0#1 ++ BitVec.ofBool f.p ++ 1#1 ++
    BitVec.ofBool f.cy

/-- 10_state.md R27: `UnpackF(v)`. Bits 5, 3 and 1 are discarded. -/
def Flags.unpack (v : Byte) : Flags :=
  { s := v.getLsbD 7, z := v.getLsbD 6, ac := v.getLsbD 4, p := v.getLsbD 2, cy := v.getLsbD 0 }

/-- 10_state.md R24: the value PUSH pushes. PSW is A : F. -/
def State.readStackPair (s : State) : StackPair → Word
  | .bc => s.bc
  | .de => s.de
  | .hl => s.hl
  | .psw => wordOf s.regs.a s.flags.pack

/-- 10_state.md R24, 46_stack.md R304: the popped value written to its pair, or to A and the flags. -/
def State.writeStackPair (s : State) (p : StackPair) (v : Word) : State :=
  match p with
  | .bc => s.setBc v
  | .de => s.setDe v
  | .hl => s.setHl v
  | .psw => (s.setFlags (Flags.unpack (loByte v))).writeReg .a (hiByte v)

/-- 30_encoding.md R88: the target of RST n. -/
def rstTarget (n : BitVec 3) : Word := n.zeroExtend 16 * 8

/-- 41_alu_flags.md R153, 30_encoding.md R87: `Cond(ccc)`. -/
def Flags.cond (f : Flags) : Cond → Bool
  | .nz => !f.z
  | .z => f.z
  | .nc => !f.cy
  | .c => f.cy
  | .po => !f.p
  | .pe => f.p
  | .p => !f.s
  | .m => f.s

end Sys2Proof.Machine
end

