-- ==== Sys2Proof/Machine/Flags.lean ====
section
/-! DEFINITION. The ALU (41_alu_flags.md): each function answers a result and the flags after it. The 16-bit functions,
whose flags can be draws, are operations on the state. -/

namespace Sys2Proof.Machine

/-- Whether a byte has an even number of 1 bits (R141). -/
def evenParity (v : Byte) : Bool :=
  ((List.range 8).countP (fun i => v.getLsbD i)) % 2 == 0

/-- R141: Z, S and P from an 8-bit result; AC and CY kept. -/
def szp (f : Flags) (res : Byte) : Flags :=
  { f with s := res.getLsbD 7, z := res == 0, p := evenParity res }

/-- The low digit of a byte, `v & 0xF`. -/
def lowDigit (v : Byte) : Nat := v.toNat % 16

/-- The high digit of a byte, `v[7:4]`. -/
def highDigit (v : Byte) : Nat := v.toNat / 16

/-- The result and flags of an operation that writes all five: S, Z, P from the result, AC and CY as given. -/
def withFlags (res : Byte) (ac cy : Bool) : Byte × Flags :=
  (res, szp { s := false, z := false, ac := ac, p := false, cy := cy } res)

/-- R142: add with carry-in. -/
def add8 (a b : Byte) (cin : Bool) : Byte × Flags :=
  let t := a.toNat + b.toNat + cin.toNat
  withFlags (BitVec.ofNat 8 t) (decide (lowDigit a + lowDigit b + cin.toNat > 0xF)) (decide (t > 0xFF))

/-- R143: subtract with borrow-in, as an addition of the complement. CY is the borrow; AC the carry out of bit 3. -/
def sub8 (a b : Byte) (bin : Bool) : Byte × Flags :=
  let t := a.toNat + (~~~b).toNat + (1 - bin.toNat)
  withFlags (BitVec.ofNat 8 t) (decide (lowDigit a + lowDigit (~~~b) + (1 - bin.toNat) > 0xF))
    (decide (a.toNat < b.toNat + bin.toNat))

/-- R144: AND, with AC as the parameter ANA_AC says. -/
def and8 (mode : AnaAc) (a b : Byte) : Byte × Flags :=
  match mode with
  | .clear => withFlags (a &&& b) false false
  | .orBit3 => withFlags (a &&& b) ((a ||| b).getLsbD 3) false

/-- R145: exclusive OR. -/
def xor8 (a b : Byte) : Byte × Flags := withFlags (a ^^^ b) false false

/-- R146: inclusive OR. -/
def or8 (a b : Byte) : Byte × Flags := withFlags (a ||| b) false false

/-- R147: increment. CY is kept, or under `doc_literal` the carry out of bit 7. -/
def inc8 (profile : FlagProfile) (f : Flags) (a : Byte) : Byte × Flags :=
  match profile with
  | .canonical => withFlags (a + 1) (lowDigit a == 0xF) f.cy
  | .docLiteral => withFlags (a + 1) (lowDigit a == 0xF) (a == 0xFF)

/-- R148: decrement. CY is kept, or under `doc_literal` the borrow. -/
def dec8 (profile : FlagProfile) (f : Flags) (a : Byte) : Byte × Flags :=
  match profile with
  | .canonical => withFlags (a - 1) (lowDigit a != 0) f.cy
  | .docLiteral => withFlags (a - 1) (lowDigit a != 0) (a == 0x00)

/-- R151: complement. The flags are kept, or under `doc_literal` S, Z and P are recomputed. -/
def cma8 (profile : FlagProfile) (f : Flags) (a : Byte) : Byte × Flags :=
  match profile with
  | .canonical => (~~~a, f)
  | .docLiteral => (~~~a, szp f (~~~a))

/-- R152: rotate left, bit 7 to bit 0 and to CY. -/
def rlc8 (f : Flags) (a : Byte) : Byte × Flags :=
  ((a <<< 1) ||| (BitVec.ofBool (a.getLsbD 7)).zeroExtend 8, { f with cy := a.getLsbD 7 })

/-- R152: rotate right, bit 0 to bit 7 and to CY. -/
def rrc8 (f : Flags) (a : Byte) : Byte × Flags :=
  ((a >>> 1) ||| ((BitVec.ofBool (a.getLsbD 0)).zeroExtend 8 <<< 7), { f with cy := a.getLsbD 0 })

/-- R152: rotate left through the carry. -/
def ral8 (f : Flags) (a : Byte) : Byte × Flags :=
  ((a <<< 1) ||| (BitVec.ofBool f.cy).zeroExtend 8, { f with cy := a.getLsbD 7 })

/-- R152: rotate right through the carry. -/
def rar8 (f : Flags) (a : Byte) : Byte × Flags :=
  ((a >>> 1) ||| ((BitVec.ofBool f.cy).zeroExtend 8 <<< 7), { f with cy := a.getLsbD 0 })

/-- R154: whether DAA corrects the low digit. -/
def daaLow (f : Flags) (a : Byte) : Bool := decide (lowDigit a > 9) || f.ac

/-- R154: whether DAA corrects the high digit. -/
def daaHigh (f : Flags) (a : Byte) : Bool :=
  decide (highDigit a > 9) || f.cy || (decide (highDigit a ≥ 9) && decide (lowDigit a > 9))

/-- R154: decimal adjust. CY is set or kept, never cleared. -/
def daa8 (f : Flags) (a : Byte) : Byte × Flags :=
  let corr := (if daaLow f a then 0x06 else 0x00) + (if daaHigh f a then 0x60 else 0x00)
  withFlags (BitVec.ofNat 8 (a.toNat + corr)) (decide (lowDigit a + corr % 16 > 0xF)) (daaHigh f a || f.cy)

/-! ### Results written back -/

/-- A result to A and its flags to F. -/
def State.setAcc (s : State) (r : Byte × Flags) : State := (s.writeReg .a r.1).setFlags r.2

/-- A result to an 8-bit operand and its flags to F. -/
def State.setRM (s : State) (x : RegM) (r : Byte × Flags) : State := (s.writeRM x r.1).setFlags r.2

/-- R149, R150, R157: S, Z, P and AC drawn, in that order, each a fresh free value; CY as given. -/
def State.drawFlags (s : State) (cy : Bool) : State :=
  { s with
    flags :=
      { s := Config.flagDraw s.drawCount
        z := Config.flagDraw (s.drawCount + 1)
        p := Config.flagDraw (s.drawCount + 2)
        ac := Config.flagDraw (s.drawCount + 3)
        cy := cy }
    drawCount := s.drawCount + 4 }

/-- R149: the flags of the 16-bit add. -/
def State.flagsAdd16 (s : State) (cy : Bool) : State :=
  match s.params.flagProfile with
  | .canonical => s.setFlags { s.flags with cy := cy }
  | .docLiteral => s.drawFlags cy

/-- R150: the flags of the 16-bit increment and decrement. -/
def State.flagsStep16 (s : State) (cy : Bool) : State :=
  match s.params.flagProfile with
  | .canonical => s
  | .docLiteral => s.drawFlags cy

end Sys2Proof.Machine
end

