-- ==== Sys2Proof/Machine/Arithmetic.lean ====
section
/-! DEFINITION. The arithmetic instructions (43_arithmetic.md R200 to R223), over the ALU functions of Flags. F.CY is
read before the function writes it. -/

namespace Sys2Proof.Machine

/-- R201, R202: `X[A] <- Add8(X[A], src, 0)`. -/
def execAdd (x : RegM) (s : State) : Result := .next (s.setAcc (add8 s.regs.a (s.readRM x) false))

/-- R203: `X[A] <- Add8(X[A], d8, 0)`. -/
def execAdi (d8 : Byte) (s : State) : Result := .next (s.setAcc (add8 s.regs.a d8 false))

/-- R204, R205: `X[A] <- Add8(X[A], src, F.CY)`. -/
def execAdc (x : RegM) (s : State) : Result := .next (s.setAcc (add8 s.regs.a (s.readRM x) s.flags.cy))

/-- R206: `X[A] <- Add8(X[A], d8, F.CY)`. -/
def execAci (d8 : Byte) (s : State) : Result := .next (s.setAcc (add8 s.regs.a d8 s.flags.cy))

/-- R207, R208: `X[A] <- Sub8(X[A], src, 0)`. -/
def execSub (x : RegM) (s : State) : Result := .next (s.setAcc (sub8 s.regs.a (s.readRM x) false))

/-- R209: `X[A] <- Sub8(X[A], d8, 0)`. -/
def execSui (d8 : Byte) (s : State) : Result := .next (s.setAcc (sub8 s.regs.a d8 false))

/-- R210, R211: `X[A] <- Sub8(X[A], src, F.CY)`. -/
def execSbb (x : RegM) (s : State) : Result := .next (s.setAcc (sub8 s.regs.a (s.readRM x) s.flags.cy))

/-- R212: `X[A] <- Sub8(X[A], d8, F.CY)`. -/
def execSbi (d8 : Byte) (s : State) : Result := .next (s.setAcc (sub8 s.regs.a d8 s.flags.cy))

/-- R213, R214: `Inc8` of a register or of the memory byte at HL. -/
def execInr (x : RegM) (s : State) : Result := .next (s.setRM x (inc8 s.params.flagProfile s.flags (s.readRM x)))

/-- R215, R216: `Dec8` of a register or of the memory byte at HL. -/
def execDcr (x : RegM) (s : State) : Result := .next (s.setRM x (dec8 s.params.flagProfile s.flags (s.readRM x)))

/-- R217, R150: `Inc16` of a pair or SP. -/
def execInx (rp : Pair) (s : State) : Result :=
  .next ((s.writePair rp (s.readPair rp + 1)).flagsStep16 (s.readPair rp == 0xFFFF))

/-- R218, R150: `Dec16` of a pair or SP. -/
def execDcx (rp : Pair) (s : State) : Result :=
  .next ((s.writePair rp (s.readPair rp - 1)).flagsStep16 (s.readPair rp == 0x0000))

/-- R219, R149: `PAIR(HL) <- Add16(PAIR(HL), y)`. -/
def execDad (rp : Pair) (s : State) : Result :=
  .next ((s.setHl (s.hl + s.readPair rp)).flagsAdd16 (decide (s.hl.toNat + (s.readPair rp).toNat > 0xFFFF)))

/-- R220: `X[A] <- Daa(X[A])`. -/
def execDaa (s : State) : Result := .next (s.setAcc (daa8 s.flags s.regs.a))

/-- R221, R222: the flags of a subtraction, its result discarded. -/
def execCmp (x : RegM) (s : State) : Result := .next (s.setFlags (sub8 s.regs.a (s.readRM x) false).2)

/-- R223: the flags of a subtraction of the immediate, its result discarded. -/
def execCpi (d8 : Byte) (s : State) : Result := .next (s.setFlags (sub8 s.regs.a d8 false).2)

end Sys2Proof.Machine
end

