-- ==== Sys2Proof/Machine/ControlFlow.lean ====
section
/-! DEFINITION. The control-flow instructions (45_control_flow.md R270 to R278). pc already holds `next_pc`, so a
condition that does not hold leaves the state alone; no flag is written. -/

namespace Sys2Proof.Machine

/-- R273, R274, R277: the return address pushed, then the jump. -/
def State.callTo (s : State) (target : Word) : State := (s.push16 s.pc).setPc target

/-- R275, R276: `pc <- Pop16()`. -/
def State.returnFrom (s : State) : State := s.dropTop16.setPc s.top16

/-- R272: `if Cond(ccc): pc <- d16`. -/
def State.jumpIf (s : State) (ccc : Cond) (target : Word) : State :=
  if s.flags.cond ccc then s.setPc target else s

/-- R274: `if Cond(ccc): Push16(pc); pc <- d16`. -/
def State.callIf (s : State) (ccc : Cond) (target : Word) : State :=
  if s.flags.cond ccc then s.callTo target else s

/-- R276: `if Cond(ccc): pc <- Pop16()`. -/
def State.returnIf (s : State) (ccc : Cond) : State := if s.flags.cond ccc then s.returnFrom else s

/-- R271: `pc <- d16`. -/
def execJmp (a16 : Word) (s : State) : Result := .next (s.setPc a16)

/-- R272: JNZ. -/
def execJnz (a16 : Word) (s : State) : Result := .next (s.jumpIf .nz a16)

/-- R272: JZ. -/
def execJz (a16 : Word) (s : State) : Result := .next (s.jumpIf .z a16)

/-- R272: JNC. -/
def execJnc (a16 : Word) (s : State) : Result := .next (s.jumpIf .nc a16)

/-- R272: JC. -/
def execJc (a16 : Word) (s : State) : Result := .next (s.jumpIf .c a16)

/-- R272: JPO. -/
def execJpo (a16 : Word) (s : State) : Result := .next (s.jumpIf .po a16)

/-- R272: JPE. -/
def execJpe (a16 : Word) (s : State) : Result := .next (s.jumpIf .pe a16)

/-- R272: JP. -/
def execJp (a16 : Word) (s : State) : Result := .next (s.jumpIf .p a16)

/-- R272: JM. -/
def execJm (a16 : Word) (s : State) : Result := .next (s.jumpIf .m a16)

/-- R273: `Push16(pc); pc <- d16`. -/
def execCall (a16 : Word) (s : State) : Result := .next (s.callTo a16)

/-- R274: CNZ. -/
def execCnz (a16 : Word) (s : State) : Result := .next (s.callIf .nz a16)

/-- R274: CZ. -/
def execCz (a16 : Word) (s : State) : Result := .next (s.callIf .z a16)

/-- R274: CNC. -/
def execCnc (a16 : Word) (s : State) : Result := .next (s.callIf .nc a16)

/-- R274: CC. -/
def execCc (a16 : Word) (s : State) : Result := .next (s.callIf .c a16)

/-- R274: CPO. -/
def execCpo (a16 : Word) (s : State) : Result := .next (s.callIf .po a16)

/-- R274: CPE. -/
def execCpe (a16 : Word) (s : State) : Result := .next (s.callIf .pe a16)

/-- R274: CP. -/
def execCp (a16 : Word) (s : State) : Result := .next (s.callIf .p a16)

/-- R274: CM. -/
def execCm (a16 : Word) (s : State) : Result := .next (s.callIf .m a16)

/-- R275: `pc <- Pop16()`. -/
def execRet (s : State) : Result := .next s.returnFrom

/-- R276: RNZ. -/
def execRnz (s : State) : Result := .next (s.returnIf .nz)

/-- R276: RZ. -/
def execRz (s : State) : Result := .next (s.returnIf .z)

/-- R276: RNC. -/
def execRnc (s : State) : Result := .next (s.returnIf .nc)

/-- R276: RC. -/
def execRc (s : State) : Result := .next (s.returnIf .c)

/-- R276: RPO. -/
def execRpo (s : State) : Result := .next (s.returnIf .po)

/-- R276: RPE. -/
def execRpe (s : State) : Result := .next (s.returnIf .pe)

/-- R276: RP. -/
def execRp (s : State) : Result := .next (s.returnIf .p)

/-- R276: RM. -/
def execRm (s : State) : Result := .next (s.returnIf .m)

/-- R277: `Push16(pc); pc <- zext_16(n) * 8`. -/
def execRst (n : BitVec 3) (s : State) : Result := .next (s.callTo (rstTarget n))

/-- R278: `pc <- PAIR(HL)`. -/
def execPchl (s : State) : Result := .next (s.setPc s.hl)

end Sys2Proof.Machine
end

