-- ==== Sys2Proof/Machine/DataMovement.lean ====
section
/-! DEFINITION. The data-movement instructions (42_data_movement.md R170 to R183). None writes a flag. -/

namespace Sys2Proof.Machine

/-- R171: `X[r1] <- X[r2]`. -/
def execMovRR (dst src : Reg) (s : State) : Result := .next (s.writeReg dst (s.readReg src))

/-- R172: `X[r] <- MemRead(PAIR(HL), 1)`. The old HL is the address. -/
def execMovRM (dst : Reg) (s : State) : Result := .next (s.writeReg dst (s.memRead s.hl))

/-- R173: `MemWrite(PAIR(HL), 1, X[r])`. -/
def execMovMR (src : Reg) (s : State) : Result := .next (s.memWrite s.hl (s.readReg src))

/-- R174, R175: the immediate to a register, or to the memory byte at HL. -/
def execMvi (dst : RegM) (d8 : Byte) (s : State) : Result := .next (s.writeRM dst d8)

/-- R176: the immediate word to a pair or SP. -/
def execLxi (rp : Pair) (d16 : Word) (s : State) : Result := .next (s.writePair rp d16)

/-- R177: `X[A] <- MemRead(d16, 1)`. -/
def execLda (a16 : Word) (s : State) : Result := .next (s.writeReg .a (s.memRead a16))

/-- R178: `MemWrite(d16, 1, X[A])`. -/
def execSta (a16 : Word) (s : State) : Result := .next (s.memWrite a16 s.regs.a)

/-- R179: `PAIR(HL) <- MemRead(d16, 2)`. -/
def execLhld (a16 : Word) (s : State) : Result := .next (s.setHl (s.memRead16 a16))

/-- R180: `MemWrite(d16, 2, PAIR(HL))`. -/
def execShld (a16 : Word) (s : State) : Result := .next (s.memWrite16 a16 s.hl)

/-- R181: `X[A] <- MemRead(PAIR(rp), 1)`. -/
def execLdax (rp : PtrPair) (s : State) : Result := .next (s.writeReg .a (s.memRead (s.ptr rp)))

/-- R182: `MemWrite(PAIR(rp), 1, X[A])`. -/
def execStax (rp : PtrPair) (s : State) : Result := .next (s.memWrite (s.ptr rp) s.regs.a)

/-- R183: DE and HL exchanged. -/
def execXchg (s : State) : Result := .next ((s.setHl s.de).setDe s.hl)

end Sys2Proof.Machine
end

