-- ==== Sys2Proof/Machine/IoControl.lean ====
section
/-! DEFINITION. The I/O and machine-control instructions and the undefined opcodes (47_io_machine_control.md R320 to
R327). None writes a flag. -/

namespace Sys2Proof.Machine

/-- R321: `X[A] <- PortRead(d8)`: one call of the handler, or PORT_SENTINEL. -/
def execInp (port : Byte) (s : State) : Result :=
  .next ((s.callPort (.read port)).writeReg .a (s.portAnswer port))

/-- R322: `PortWrite(d8, X[A])`: one call of the handler, or nothing. -/
def execOut (port : Byte) (s : State) : Result := .next (s.callPort (.write port s.regs.a))

/-- R323: `INTE <- 1`. -/
def execEi (s : State) : Result := .next (s.setInte true)

/-- R324: `INTE <- 0`. -/
def execDi (s : State) : Result := .next (s.setInte false)

/-- R325: `run <- Halted`. -/
def execHlt (s : State) : Result := .next (s.setRun .halted)

/-- R326: nothing. -/
def execNop (s : State) : Result := .next s

/-- R327: an undefined opcode under `nop`, or one that is NOP under `alias` too: nothing. -/
def execStarNop (_u : UndefOp) (s : State) : Result := .next s

/-- R327 under `alias`: 0xCB is JMP (R271). -/
def execStarJmp (a16 : Word) (s : State) : Result := .next (s.setPc a16)

/-- R327 under `alias`: 0xD9 is RET (R275). -/
def execStarRet (s : State) : Result := .next s.returnFrom

/-- R327 under `alias`: 0xDD, 0xED and 0xFD are CALL (R273). -/
def execStarCall (_u : UndefOp) (a16 : Word) (s : State) : Result := .next (s.callTo a16)

end Sys2Proof.Machine
end

