-- ==== Sys2Proof/Machine/Logical.lean ====
section
/-! DEFINITION. The logical, rotate and carry instructions (44_logical.md R240 to R256). -/

namespace Sys2Proof.Machine

/-- R241, R242: `X[A] <- And8(X[A], src)`. -/
def execAna (x : RegM) (s : State) : Result := .next (s.setAcc (and8 s.params.anaAc s.regs.a (s.readRM x)))

/-- R243: `X[A] <- And8(X[A], d8)`. -/
def execAni (d8 : Byte) (s : State) : Result := .next (s.setAcc (and8 s.params.anaAc s.regs.a d8))

/-- R244, R245: `X[A] <- Xor8(X[A], src)`. -/
def execXra (x : RegM) (s : State) : Result := .next (s.setAcc (xor8 s.regs.a (s.readRM x)))

/-- R246: `X[A] <- Xor8(X[A], d8)`. -/
def execXri (d8 : Byte) (s : State) : Result := .next (s.setAcc (xor8 s.regs.a d8))

/-- R247, R248: `X[A] <- Or8(X[A], src)`. -/
def execOra (x : RegM) (s : State) : Result := .next (s.setAcc (or8 s.regs.a (s.readRM x)))

/-- R249: `X[A] <- Or8(X[A], d8)`. -/
def execOri (d8 : Byte) (s : State) : Result := .next (s.setAcc (or8 s.regs.a d8))

/-- R250: rotate A left. -/
def execRlc (s : State) : Result := .next (s.setAcc (rlc8 s.flags s.regs.a))

/-- R251: rotate A right. -/
def execRrc (s : State) : Result := .next (s.setAcc (rrc8 s.flags s.regs.a))

/-- R252: rotate A left through the carry. -/
def execRal (s : State) : Result := .next (s.setAcc (ral8 s.flags s.regs.a))

/-- R253: rotate A right through the carry. -/
def execRar (s : State) : Result := .next (s.setAcc (rar8 s.flags s.regs.a))

/-- R254: complement A. -/
def execCma (s : State) : Result := .next (s.setAcc (cma8 s.params.flagProfile s.flags s.regs.a))

/-- R255: `F.CY <- 1 - F.CY`. -/
def execCmc (s : State) : Result := .next (s.setFlags { s.flags with cy := !s.flags.cy })

/-- R256: `F.CY <- 1`. -/
def execStc (s : State) : Result := .next (s.setFlags { s.flags with cy := true })

end Sys2Proof.Machine
end

