-- ==== Sys2Proof/Machine/Stack.lean ====
section
/-! DEFINITION. The stack instructions (46_stack.md R300 to R306). SP has no bounds and wraps; only POP PSW writes flags. -/

namespace Sys2Proof.Machine

/-- R301, R302: `Push16` of BC, DE, HL or A : F. -/
def execPush (rp : StackPair) (s : State) : Result := .next (s.push16 (s.readStackPair rp))

/-- R303, R304: `Pop16` into BC, DE, HL or A and the flags. -/
def execPop (rp : StackPair) (s : State) : Result := .next (s.dropTop16.writeStackPair rp s.top16)

/-- R305: HL and the word at SP exchanged; both bytes are read before either is written, L's byte first. -/
def execXthl (s : State) : Result := .next ((s.memWrite16 s.sp s.hl).setHl (s.memRead16 s.sp))

/-- R306: `SP <- PAIR(HL)`. -/
def execSphl (s : State) : Result := .next (s.setSp s.hl)

end Sys2Proof.Machine
end

