-- ==== Sys2Proof/Machine/Step.lean ====
section
/-! DEFINITION. One step of the executor (40_execution_cycle.md R132). -/

namespace Sys2Proof.Machine

/-- R132: in `Running`, fetch, move pc past the instruction and execute it, or fault with nothing else changed. In
`Halted` and `Faulted` no step is defined (R127). -/
def step (s : State) : Host.Outcome State Fault Refusal :=
  match s.run with
  | .running =>
    match s.fetch with
    | .ok i => exec i (s.advancePc i.length)
    | .error r => .next (s.raise r)
  | .halted => .fault .stepInHalted
  | .faulted r => .fault (.stepInFaulted r)

/-- The state whose next step fetches the instruction with the given table bits (log 4). -/
def State.withFetchWord (s : State) (nbits w : Nat) : State := s.loadAtPc nbits w

end Sys2Proof.Machine
end

