-- ==== Sys2Proof/Machine/Disasm.lean ====
section
/-! DEFINITION. The disassembler (30_encoding.md R98 to R100), a second reader of the decoder. It executes nothing. -/

namespace Sys2Proof.Machine

/-- One upper-case hex digit (R99). -/
def hexDigit (n : Nat) : String :=
  match n with
  | 0 => "0" | 1 => "1" | 2 => "2" | 3 => "3" | 4 => "4" | 5 => "5" | 6 => "6" | 7 => "7"
  | 8 => "8" | 9 => "9" | 10 => "A" | 11 => "B" | 12 => "C" | 13 => "D" | 14 => "E" | _ => "F"

/-- Two upper-case hex digits (R99). -/
def hexByte (v : Byte) : String := hexDigit (v.toNat / 16) ++ hexDigit (v.toNat % 16)

/-- R99: a byte operand, `$hh`. -/
def textByte (v : Byte) : String := "$" ++ hexByte v

/-- R99: a word operand, `$hhhh`. -/
def textWord (v : Word) : String := "$" ++ hexByte (hiByte v) ++ hexByte (loByte v)

/-- R98: a register's name. -/
def textReg : Reg → String
  | .b => "B" | .c => "C" | .d => "D" | .e => "E" | .h => "H" | .l => "L" | .a => "A"

/-- R98: an 8-bit operand's name. -/
def textRM : RegM → String
  | .reg r => textReg r
  | .m => "M"

/-- R98: a pair is named by its first register, or is SP. -/
def textPair : Pair → String
  | .bc => "B" | .de => "D" | .hl => "H" | .sp => "SP"

/-- R98: a pair is named by its first register, or is PSW. -/
def textStackPair : StackPair → String
  | .bc => "B" | .de => "D" | .hl => "H" | .psw => "PSW"

/-- R98: the pointer pair of LDAX and STAX. -/
def textPtrPair : PtrPair → String
  | .bc => "B" | .de => "D"

/-- R98, R99: the operands of an instruction as text, empty for an operand-less form. -/
def operandText : Instr → String
  | .movRR dst src => textReg dst ++ "," ++ textReg src
  | .movRM dst => textReg dst ++ ",M"
  | .movMR src => "M," ++ textReg src
  | .mvi dst d8 => textRM dst ++ "," ++ textByte d8
  | .lxi rp d16 => textPair rp ++ "," ++ textWord d16
  | .add x | .adc x | .sub x | .sbb x | .cmp x | .ana x | .xra x | .ora x | .inr x | .dcr x => textRM x
  | .adi d8 | .aci d8 | .sui d8 | .sbi d8 | .cpi d8 | .ani d8 | .xri d8 | .ori d8 | .inp d8 | .out d8 => textByte d8
  | .lda w | .sta w | .lhld w | .shld w | .jmp w | .call w | .starJmp w | .starCall _ w => textWord w
  | .jnz w | .jz w | .jnc w | .jc w | .jpo w | .jpe w | .jp w | .jm w => textWord w
  | .cnz w | .cz w | .cnc w | .cc w | .cpo w | .cpe w | .cp w | .cm w => textWord w
  | .ldax rp | .stax rp => textPtrPair rp
  | .inx rp | .dcx rp | .dad rp => textPair rp
  | .push rp | .pop rp => textStackPair rp
  | .rst n => hexDigit n.toNat
  | .xchg | .daa | .rlc | .rrc | .ral | .rar | .cma | .cmc | .stc => ""
  | .ret | .rnz | .rz | .rnc | .rc | .rpo | .rpe | .rp | .rm | .pchl | .xthl | .sphl => ""
  | .ei | .di | .hlt | .nop | .starNop _ | .starRet => ""

/-- R98, R99: an instruction's text, the mnemonic first. -/
def instrText (i : Instr) : String :=
  if operandText i = "" then i.mnemonic else i.mnemonic ++ " " ++ operandText i

/-- One entry of a listing (R100). -/
structure DisasmRecord where
  address : Word
  text : String
  bytes : List Byte
  deriving DecidableEq, Repr

/-- The report of trailing bytes that do not decode (R100): a value, nothing is raised. -/
structure TrailingReport where
  address : Word
  bytes : List Byte
  reason : FaultReason
  deriving DecidableEq, Repr

/-- R100 from an address on, at most `n` entries. The whole sequence is computed; the spec's is lazy (log 16). -/
def disasmFrom (pol : UndefPolicy) (address : Word) (n : Nat) (stream : List Byte) :
    List DisasmRecord × Option TrailingReport :=
  match n with
  | 0 => ([], none)
  | n + 1 =>
    match stream with
    | [] => ([], none)
    | op :: rest =>
      match decode pol (op :: rest) with
      | .error r => ([], some { address := address, bytes := op :: rest, reason := r })
      | .ok (i, tail) =>
        let next := disasmFrom pol (address + BitVec.ofNat 16 i.length) n tail
        ({ address := address, text := instrText i, bytes := (op :: rest).take i.length } :: next.1, next.2)

/-- R100: the listing of a stream from a cursor on. The address of a record is `(BASE + cursor) mod 2^16` (D30). A cursor
exactly at the end lists nothing and reports nothing, as R100 says. DESIGN CHOICE (log 17, unsafe): so does a cursor past the
end, of which the spec says only that a valid offset is the caller's concern. -/
def disassemble (pol : UndefPolicy) (base : Word) (stream : List Byte) (cursor : Nat) :
    List DisasmRecord × Option TrailingReport :=
  disasmFrom pol (base + BitVec.ofNat 16 cursor) stream.length (stream.drop cursor)

/-- R102: the test-fixture stream, with filler bytes 0x00 as 95_test_vectors.md uses. -/
def fixtureStream (pol : UndefPolicy) : List Byte :=
  (List.range 256).flatMap (fun k =>
    BitVec.ofNat 8 k :: List.replicate (lengthOf pol (BitVec.ofNat 8 k) - 1) 0x00)

end Sys2Proof.Machine
end

