-- ==== Sys2Proof/Machine/Boot.lean ====
section
/-! DEFINITION. The start of a run (70_reset_and_hazards.md R380 to R383, 10_state.md R34, R35): the state a caller's
parameters, INIT values and program image make. -/

namespace Sys2Proof.Machine

/-- INIT (00_scope.md R7, R383): the values at the start of a run that the spec leaves open. Memory is given as the bytes
that differ from what an unlisted byte reads as, in any order. -/
structure Init where
  regs : Regs
  flags : Flags
  sp : Word
  cells : List Host.Cell
  deriving DecidableEq, Repr

/-- R381 step 1: memory with its INIT bytes, indexes taken modulo the capacity (R51). -/
def Init.memory (init : Init) (memSize : Nat) : Memory :=
  init.cells.foldl (fun m cell => Memory.write m (cell.1 % memSize) cell.2) []

/-- R381 steps 4 to 6: every cell but the image's bytes. -/
def initialState (p : Params) (init : Init) (image : List Byte) : State :=
  { regs := init.regs
    flags := init.flags
    sp := init.sp
    pc := p.entry
    inte := false
    run := .running
    mem := init.memory p.memSize
    params := { p with imageLen := image.length }
    portLog := []
    drawCount := 0 }

/-- R381: the start of a run, refused where the image is larger than memory (R62) or the capacity is out of range (R7). -/
def startOfRun (p : Params) (init : Init) (image : List Byte) : Result :=
  if p.memSize = 0 ∨ p.memSize > 65536 then .refused .memSizeOutOfRange
  else if image.length > p.memSize then .refused .imageTooLarge
  else .next ((initialState p init image).loadBytes p.base image)

end Sys2Proof.Machine
end

