-- ==== Sys2Proof/Safety.lean ====
section
/-! DEFINITION. The terms claims use: the invariant of a state, and what an instruction may change (10_state.md R33,
41_alu_flags.md R158, 20_memory.md R59). -/

namespace Sys2Proof.Machine

/-- A state the block can be in: parameters in their ranges (00_scope.md R7), memory in its canonical form and within the
capacity (20_memory.md R50). -/
abbrev Inv (s : State) : Prop :=
  s.params.wf = true ∧ Memory.wf s.mem = true ∧ Memory.below s.params.memSize s.mem = true

/-- The names of the five flags (10_state.md R27). -/
inductive Flag
  | s | z | ac | p | cy
  deriving DecidableEq, Repr

/-- All five flags. -/
def Flag.all : List Flag := [.s, .z, .ac, .p, .cy]

/-- A flag by its name. -/
def State.flag (st : State) : Flag → Bool
  | .s => st.flags.s
  | .z => st.flags.z
  | .ac => st.flags.ac
  | .p => st.flags.p
  | .cy => st.flags.cy

/-- What an instruction may change: the registers and flags listed, the cells marked true, and the bytes stored at the
listed addresses. -/
structure May where
  regs : List Reg := []
  flags : List Flag := []
  sp : Bool := false
  pc : Bool := false
  inte : Bool := false
  run : Bool := false
  ports : Bool := false
  draws : Bool := false
  stored : List Word := []
  deriving DecidableEq, Repr

/-- Nothing but what `w` lists differs between the two states; memory is compared byte by byte at every address that
shares no index with a stored one. The parameters never change (40_execution_cycle.md R129). -/
def Frame (w : May) (s t : State) : Prop :=
  (∀ r : Reg, r ∉ w.regs → t.readReg r = s.readReg r) ∧
  (∀ f : Flag, f ∉ w.flags → t.flag f = s.flag f) ∧
  (w.sp = false → t.sp = s.sp) ∧
  (w.pc = false → t.pc = s.pc) ∧
  (w.inte = false → t.inte = s.inte) ∧
  (w.run = false → t.run = s.run) ∧
  (w.ports = false → t.portLog = s.portLog) ∧
  (w.draws = false → t.drawCount = s.drawCount) ∧
  t.params = s.params ∧
  ∀ a : Word, (∀ b ∈ w.stored, s.phys a ≠ s.phys b) → t.memRead a = s.memRead a

/-- The registers of a pair operand. -/
def pairRegs : Pair → List Reg
  | .bc => [.b, .c]
  | .de => [.d, .e]
  | .hl => [.h, .l]
  | .sp => []

/-- An 8-bit operand written, with the given flags. -/
def May.rm (st : State) (x : RegM) (flags : List Flag) : May :=
  match x with
  | .reg r => { regs := [r], flags := flags }
  | .m => { stored := [st.hl], flags := flags }

/-- A result in A, with the given flags. -/
def May.acc (flags : List Flag) : May := { regs := [.a], flags := flags }

/-- A pair operand written. -/
def May.pair (p : Pair) : May := { regs := pairRegs p, sp := p == .sp }

/-- R158: the flags of INR and DCR, by FLAG_PROFILE. -/
def May.stepFlags (st : State) : List Flag :=
  match st.params.flagProfile with
  | .canonical => [.s, .z, .ac, .p]
  | .docLiteral => Flag.all

/-- R158: a 16-bit operation's flags: `canonical` as given, all five, four of them drawn, under `doc_literal`. -/
def May.with16 (st : State) (w : May) (canonical : List Flag) : May :=
  match st.params.flagProfile with
  | .canonical => { w with flags := canonical }
  | .docLiteral => { w with flags := Flag.all, draws := true }

/-- A conditional effect. -/
def May.when (taken : Bool) (w : May) : May := if taken then w else {}

/-- A jump. -/
def May.jump : May := { pc := true }

/-- A call (R59): two bytes below SP. -/
def May.call (st : State) : May := { pc := true, sp := true, stored := [st.sp - 1, st.sp - 2] }

/-- A return. -/
def May.ret : May := { pc := true, sp := true }

/-- The port log, where a handler is present (20_memory.md R64). -/
def May.logs (st : State) : Bool := decide (st.params.portHandler ≠ .absent)

/-- What each instruction may change, from the tables of R33 (registers, SP, pc, INTE, memory), R158 (flags) and R59
(stored bytes). The state is the one the instruction executes in. -/
def may (i : Instr) (st : State) : May :=
  match i with
  | .movRR dst _ => { regs := [dst] }
  | .movRM dst => { regs := [dst] }
  | .movMR _ => { stored := [st.hl] }
  | .mvi dst _ => May.rm st dst []
  | .lxi rp _ => May.pair rp
  | .lda _ => May.acc []
  | .sta a16 => { stored := [a16] }
  | .lhld _ => { regs := [.h, .l] }
  | .shld a16 => { stored := [a16, a16 + 1] }
  | .ldax _ => May.acc []
  | .stax rp => { stored := [st.ptr rp] }
  | .xchg => { regs := [.d, .e, .h, .l] }
  | .add _ | .adi _ | .adc _ | .aci _ | .sub _ | .sui _ | .sbb _ | .sbi _ | .daa => May.acc Flag.all
  | .inr x | .dcr x => May.rm st x (May.stepFlags st)
  | .inx rp | .dcx rp => May.with16 st (May.pair rp) []
  | .dad _ => May.with16 st { regs := [.h, .l] } [.cy]
  | .cmp _ | .cpi _ => { flags := Flag.all }
  | .ana _ | .ani _ | .xra _ | .xri _ | .ora _ | .ori _ => May.acc Flag.all
  | .rlc | .rrc | .ral | .rar => May.acc [.cy]
  | .cma => May.acc (match st.params.flagProfile with | .canonical => [] | .docLiteral => [.s, .z, .p])
  | .cmc | .stc => { flags := [.cy] }
  | .jmp _ | .starJmp _ | .pchl => May.jump
  | .jnz _ => May.when (st.flags.cond .nz) May.jump
  | .jz _ => May.when (st.flags.cond .z) May.jump
  | .jnc _ => May.when (st.flags.cond .nc) May.jump
  | .jc _ => May.when (st.flags.cond .c) May.jump
  | .jpo _ => May.when (st.flags.cond .po) May.jump
  | .jpe _ => May.when (st.flags.cond .pe) May.jump
  | .jp _ => May.when (st.flags.cond .p) May.jump
  | .jm _ => May.when (st.flags.cond .m) May.jump
  | .call _ | .starCall _ _ | .rst _ => May.call st
  | .cnz _ => May.when (st.flags.cond .nz) (May.call st)
  | .cz _ => May.when (st.flags.cond .z) (May.call st)
  | .cnc _ => May.when (st.flags.cond .nc) (May.call st)
  | .cc _ => May.when (st.flags.cond .c) (May.call st)
  | .cpo _ => May.when (st.flags.cond .po) (May.call st)
  | .cpe _ => May.when (st.flags.cond .pe) (May.call st)
  | .cp _ => May.when (st.flags.cond .p) (May.call st)
  | .cm _ => May.when (st.flags.cond .m) (May.call st)
  | .ret | .starRet => May.ret
  | .rnz => May.when (st.flags.cond .nz) May.ret
  | .rz => May.when (st.flags.cond .z) May.ret
  | .rnc => May.when (st.flags.cond .nc) May.ret
  | .rc => May.when (st.flags.cond .c) May.ret
  | .rpo => May.when (st.flags.cond .po) May.ret
  | .rpe => May.when (st.flags.cond .pe) May.ret
  | .rp => May.when (st.flags.cond .p) May.ret
  | .rm => May.when (st.flags.cond .m) May.ret
  | .push _ => { sp := true, stored := [st.sp - 1, st.sp - 2] }
  | .pop .bc => { sp := true, regs := [.b, .c] }
  | .pop .de => { sp := true, regs := [.d, .e] }
  | .pop .hl => { sp := true, regs := [.h, .l] }
  | .pop .psw => { sp := true, regs := [.a], flags := Flag.all }
  | .xthl => { regs := [.h, .l], stored := [st.sp, st.sp + 1] }
  | .sphl => { sp := true }
  | .inp _ => { regs := [.a], ports := May.logs st }
  | .out _ => { ports := May.logs st }
  | .ei | .di => { inte := true }
  | .hlt => { run := true }
  | .nop | .starNop _ => {}

/-! ### What a result says, in exact arithmetic -/

/-- The number of 1 bits of a byte. -/
def onesIn (v : Byte) : Nat :=
  v.toNat % 2 + v.toNat / 2 % 2 + v.toNat / 4 % 2 + v.toNat / 8 % 2 + v.toNat / 16 % 2 + v.toNat / 32 % 2 +
    v.toNat / 64 % 2 + v.toNat / 128 % 2

/-- 41_alu_flags.md R141: S, Z and P say the sign bit, zeroness and even parity of a byte. -/
def SzpOf (f : Flags) (v : Byte) : Prop :=
  (f.s = true ↔ 128 ≤ v.toNat) ∧ (f.z = true ↔ v.toNat = 0) ∧ (f.p = true ↔ onesIn v % 2 = 0)

/-- R142: the five flags of `a + b + cin`. -/
def AddFlags (f : Flags) (a b : Byte) (cin : Bool) (res : Byte) : Prop :=
  res.toNat = (a.toNat + b.toNat + cin.toNat) % 256 ∧
  (f.cy = true ↔ 255 < a.toNat + b.toNat + cin.toNat) ∧
  (f.ac = true ↔ 15 < a.toNat % 16 + b.toNat % 16 + cin.toNat) ∧ SzpOf f res

/-- R143: the five flags of `a - b - bin`; AC is the carry out of bit 3 of the addition of the complement. -/
def SubFlags (f : Flags) (a b : Byte) (bin : Bool) (res : Byte) : Prop :=
  res.toNat = (a.toNat + (255 - b.toNat) + (1 - bin.toNat)) % 256 ∧
  (f.cy = true ↔ a.toNat < b.toNat + bin.toNat) ∧
  (f.ac = true ↔ 15 < a.toNat % 16 + (15 - b.toNat % 16) + (1 - bin.toNat)) ∧ SzpOf f res

/-- The instruction completes, A holds the sum, the five flags are its flags, and nothing else changes. -/
def AddsToA (i : Instr) (s : State) (b : Byte) (cin : Bool) : Prop :=
  ∃ t, exec i s = .next t ∧ AddFlags t.flags s.regs.a b cin t.regs.a ∧ Frame (May.acc Flag.all) s t

/-- The instruction completes, A holds the difference, the five flags are its flags, and nothing else changes. -/
def SubtractsFromA (i : Instr) (s : State) (b : Byte) (bin : Bool) : Prop :=
  ∃ t, exec i s = .next t ∧ SubFlags t.flags s.regs.a b bin t.regs.a ∧ Frame (May.acc Flag.all) s t

/-- The instruction completes, the five flags are those of `A - b`, and nothing else changes, A among it. -/
def ComparesWithA (i : Instr) (s : State) (b : Byte) : Prop :=
  ∃ t res, exec i s = .next t ∧ SubFlags t.flags s.regs.a b false res ∧
    (t.flags.z = true ↔ s.regs.a = b) ∧ Frame { flags := Flag.all } s t

/-- The instruction completes, A holds a byte given bit by bit, S, Z and P are its flags, CY is clear, AC is as given, and
nothing else changes. -/
def LogicToA (i : Instr) (s : State) (bit : Bool → Bool → Bool) (b : Byte) (ac : Bool) : Prop :=
  ∃ t, exec i s = .next t ∧
    (∀ k : Nat, k < 8 → t.regs.a.getLsbD k = bit (s.regs.a.getLsbD k) (b.getLsbD k)) ∧
    SzpOf t.flags t.regs.a ∧ t.flags.cy = false ∧ t.flags.ac = ac ∧ Frame (May.acc Flag.all) s t

/-- What an 8-bit operand holds after an instruction that wrote it: M is the byte at the old HL. -/
def operandAfter (s t : State) : RegM → Byte
  | .reg r => t.readReg r
  | .m => t.memRead s.hl

/-- R149, R150, R157: S, Z, P and AC are fresh draws, in this order. -/
def Drawn (s t : State) : Prop :=
  t.flags.s = Config.flagDraw s.drawCount ∧ t.flags.z = Config.flagDraw (s.drawCount + 1) ∧
  t.flags.p = Config.flagDraw (s.drawCount + 2) ∧ t.flags.ac = Config.flagDraw (s.drawCount + 3) ∧
  t.drawCount = s.drawCount + 4

/-- The instruction completes as a call: the return address `pc` (which holds `next_pc`) is on the stack, its low byte
written last, pc is the target, and nothing else changes. -/
def CallsTo (i : Instr) (s : State) (target : Word) : Prop :=
  ∃ t, exec i s = .next t ∧ t.pc = target ∧ t.sp = s.sp - 2 ∧ t.memRead (s.sp - 2) = loByte s.pc ∧
    t.memRead (s.sp - 1) = (if s.phys (s.sp - 1) = s.phys (s.sp - 2) then loByte s.pc else hiByte s.pc) ∧
    Frame (May.call s) s t

/-- The instruction completes as a return: pc is the word at SP, SP has moved past it, and nothing else changes. -/
def Returns (i : Instr) (s : State) : Prop :=
  ∃ t, exec i s = .next t ∧ t.pc = wordOf (s.memRead (s.sp + 1)) (s.memRead s.sp) ∧ t.sp = s.sp + 2 ∧
    Frame May.ret s t

/-- 40_execution_cycle.md R121 to R123, 60_exceptions.md R350: where the instruction's bytes stand in memory at pc, a
running state completes it if each of them is inside the fetch window, running or halted after it, and otherwise faults with
nothing but the run state changed. -/
def FaultsAtFetchOnly (i : Instr) : Prop :=
  ∀ s : State, s.run = .running → i.wf s.params.undefPolicy = true →
    (∀ (k : Nat) (v : Byte), (encode i)[k]? = some v → s.memRead (s.pc + BitVec.ofNat 16 k) = v) →
    ((∀ k : Nat, k < i.length → s.inWindow (s.pc + BitVec.ofNat 16 k) = true) →
      ∃ t, step s = .next t ∧ exec i (s.setPc (s.pc + BitVec.ofNat 16 i.length)) = .next t ∧
        (t.run = .running ∨ t.run = .halted)) ∧
    ∀ k : Nat, k < i.length → s.inWindow (s.pc + BitVec.ofNat 16 k) = false →
      step s = .next { s with run := .faulted .incompleteInstruction }

/-- The packed decimal byte of a number below 100. -/
def bcd (n : Nat) : Byte := BitVec.ofNat 8 (n / 10 * 16 + n % 10)

/-- The state after an instruction that completes, and the state itself otherwise. -/
def after (i : Instr) (s : State) : State :=
  match exec i s with
  | .next t => t
  | .fault _ => s
  | .refused _ => s

end Sys2Proof.Machine
end

