-- ==== Sys2Proof/Certificates/Slice0/Obligations.lean ====
section
/-! DEFINITION. The statements for the provers. Each docstring names the rules it formalises. `exec i s` runs on a state
whose pc already holds `next_pc` (40_execution_cycle.md R124). -/

open Sys2Proof Sys2Proof.Machine

/-! ### Encoding and decoding -/

/-- 30_encoding.md R82, R89: a few words of each family, written out from the formats and the map. -/
def Obligations.SampleWordsDecode : Prop :=
  decode .nop [0b01000001, 0xAA] = .ok (.movRR .b .c, [0xAA]) ∧
  decode .nop [0b00110110, 0x99] = .ok (.mvi .m 0x99, []) ∧
  decode .nop [0b00100001, 0x34, 0x12] = .ok (.lxi .hl 0x1234, []) ∧
  decode .nop [0b10001110] = .ok (.adc .m, []) ∧
  decode .nop [0b00111001] = .ok (.dad .sp, []) ∧
  decode .nop [0b11101110, 0x81] = .ok (.xri 0x81, []) ∧
  decode .nop [0b11111010, 0x00, 0x30] = .ok (.jm 0x3000, []) ∧
  decode .nop [0b11110101] = .ok (.push .psw, []) ∧
  decode .nop [0b01110110] = .ok (.hlt, []) ∧
  decode .nop [0b11001011, 0x34, 0x12] = .ok (.starNop .xCB, [0x34, 0x12]) ∧
  decode .aliased [0b11001011, 0x34, 0x12] = .ok (.starJmp 0x1234, [])

/-- R82 to R92, R95: decoding the bytes of any instruction of the table gives it back with all its operands, and leaves
the bytes after it. -/
def Obligations.DecodeOfEncodeIsTheInstruction : Prop :=
  ∀ (pol : UndefPolicy) (i : Instr) (rest : List Byte), i.wf pol = true → decode pol (encode i ++ rest) = .ok (i, rest)

/-- R93, R95: whatever decodes is an instruction of the table, and its bytes are the ones decoded. -/
def Obligations.EncodeOfDecodeIsTheStream : Prop :=
  ∀ (pol : UndefPolicy) (bytes rest : List Byte) (i : Instr),
    decode pol bytes = .ok (i, rest) → i.wf pol = true ∧ encode i ++ rest = bytes

/-- R96: the only failure is a stream that ends before the opcode's bytes do, or has no opcode; no opcode value fails. -/
def Obligations.DecodeFailsExactlyWhenTheStreamIsShort : Prop :=
  ∀ (pol : UndefPolicy) (stream : List Byte) (cursor : Nat),
    (decodeAt pol stream cursor = .error .incompleteInstruction ↔
      (stream.length ≤ cursor ∨
        ∃ op rest, stream.drop cursor = op :: rest ∧ stream.length < cursor + lengthOf pol op)) ∧
    ∀ op rest, stream.drop cursor = op :: rest → cursor + lengthOf pol op ≤ stream.length →
      decodeAt pol stream cursor =
        .ok (lookup pol op, rest.take (lengthOf pol op - 1), cursor + lengthOf pol op)

/-- R90: the two-byte and three-byte classes under each policy, and how many opcodes each class has. -/
def Obligations.LengthClassesOfTheOpcodes : Prop :=
  (∀ pol : UndefPolicy, ∀ op : Byte, lengthOf pol op = 2 ↔
    op ∈ [0x06#8, 0x0E, 0x16, 0x1E, 0x26, 0x2E, 0x36, 0x3E, 0xC6, 0xCE, 0xD6, 0xDE, 0xE6, 0xEE, 0xF6, 0xFE, 0xD3, 0xDB]) ∧
  (∀ op : Byte, lengthOf .nop op = 3 ↔
    op ∈ [0x01#8, 0x11, 0x21, 0x31, 0x22, 0x2A, 0x32, 0x3A, 0xC3, 0xC2, 0xCA, 0xD2, 0xDA, 0xE2, 0xEA, 0xF2, 0xFA, 0xCD,
      0xC4, 0xCC, 0xD4, 0xDC, 0xE4, 0xEC, 0xF4, 0xFC]) ∧
  (∀ op : Byte, lengthOf .aliased op = 3 ↔ (lengthOf .nop op = 3 ∨ op ∈ [0xCB#8, 0xDD, 0xED, 0xFD])) ∧
  (∀ pol : UndefPolicy, ∀ op : Byte, lengthOf pol op = 1 ∨ lengthOf pol op = 2 ∨ lengthOf pol op = 3) ∧
  ((List.range 256).countP (fun n => lengthOf .nop (BitVec.ofNat 8 n) == 1) = 212) ∧
  ((List.range 256).countP (fun n => lengthOf .aliased (BitVec.ofNat 8 n) == 1) = 208)

/-- R92, R327: under `nop` each undefined opcode is one byte and changes nothing; under `alias` the first seven are NOP,
0xCB is JMP, 0xD9 is RET and 0xDD, 0xED, 0xFD are CALL, with their lengths. -/
def Obligations.UndefinedOpcodesFollowThePolicy : Prop :=
  (∀ (u : UndefOp) (rest : List Byte), decode .nop (u.code :: rest) = .ok (.starNop u, rest)) ∧
  (∀ (u : UndefOp) (rest : List Byte), u ∈ [.x08, .x10, .x18, .x20, .x28, .x30, .x38] →
    decode .aliased (u.code :: rest) = .ok (.starNop u, rest)) ∧
  (∀ (lo hi : Byte) (rest : List Byte),
    decode .aliased (0xCB :: lo :: hi :: rest) = .ok (.starJmp (wordOf hi lo), rest)) ∧
  (∀ rest : List Byte, decode .aliased (0xD9 :: rest) = .ok (.starRet, rest)) ∧
  (∀ (u : UndefOp) (lo hi : Byte) (rest : List Byte), u ∈ [.xDD, .xED, .xFD] →
    decode .aliased (u.code :: lo :: hi :: rest) = .ok (.starCall u (wordOf hi lo), rest)) ∧
  ∀ (u : UndefOp) (a16 : Word) (s : State),
    exec (.starNop u) s = .next s ∧ exec (.starJmp a16) s = exec (.jmp a16) s ∧ exec .starRet s = exec .ret s ∧
    exec (.starCall u a16) s = exec (.call a16) s ∧ exec (.starJmp a16) s = .next (s.setPc a16) ∧
    Returns .starRet s ∧ (Memory.wf s.mem = true → CallsTo (.starCall u a16) s a16) ∧
    FaultsAtFetchOnly (.starNop u) ∧ FaultsAtFetchOnly (.starJmp a16) ∧ FaultsAtFetchOnly .starRet ∧
    FaultsAtFetchOnly (.starCall u a16)

/-! ### The step -/

/-- 40_execution_cycle.md R124, R125, R132: where the bytes at pc decode to an instruction, a step runs it on the state
with pc past its bytes. -/
def Obligations.StepRunsTheDecodedInstruction : Prop :=
  ∀ (s : State) (i : Instr) (rest : List Byte), s.run = .running →
    decode s.params.undefPolicy s.fetchBytes = .ok (i, rest) → step s = exec i (s.setPc (s.pc + BitVec.ofNat 16 i.length))

/-- R121 to R124: with every byte of the instruction at pc inside the window, a step runs it with pc past it; with one
outside, the run state becomes Faulted and nothing else changes, pc among it. -/
def Obligations.FetchWindowDecidesTheStep : Prop :=
  ∀ s : State, s.run = .running →
    ((∀ k : Nat, k < lengthOf s.params.undefPolicy (s.memRead s.pc) → s.inWindow (s.pc + BitVec.ofNat 16 k) = true) →
      step s = exec (decodeOp s.params.undefPolicy (s.memRead s.pc) (s.memRead (s.pc + 1)) (s.memRead (s.pc + 2)))
        (s.setPc (s.pc + BitVec.ofNat 16 (lengthOf s.params.undefPolicy (s.memRead s.pc))))) ∧
    (∀ k : Nat, k < lengthOf s.params.undefPolicy (s.memRead s.pc) →
      s.inWindow (s.pc + BitVec.ofNat 16 k) = false → step s = .next { s with run := .faulted .incompleteInstruction }) ∧
    (∀ a : Word, s.inWindow a = true ↔
      (s.params.fetchWindow = .memory ∨ (a.toNat + 65536 - s.params.base.toNat) % 65536 < s.params.imageLen))

/-- 60_exceptions.md R350, R351: the fetch fault is the only one there is. With every byte of the instruction at pc inside
the window the step completes it and does not fault; with one outside, it takes the fetch fault. -/
def Obligations.EveryInstructionFaultsAtFetchOnly : Prop := ∀ i : Instr, FaultsAtFetchOnly i

/-- R352, R121: with FETCH_WINDOW = memory every running state steps, and never to Faulted. -/
def Obligations.MemoryWindowNeverFaults : Prop :=
  ∀ s : State, s.run = .running → s.params.fetchWindow = .memory →
    ∃ t, step s = .next t ∧ (t.run = .running ∨ t.run = .halted)

/-- R127: no step is defined in Halted or Faulted; that this is a stop by name is the model's form (log 9). -/
def Obligations.HaltedAndFaultedAreTerminal : Prop :=
  ∀ (s : State) (r : FaultReason),
    (s.run = .halted → step s = .fault .stepInHalted) ∧ (s.run = .faulted r → step s = .fault (.stepInFaulted r))

/-- R120, R325, R350: only Running steps; only HLT halts; only an incomplete fetch faults, and it changes the run state
alone. -/
def Obligations.RunStateTransitions : Prop :=
  ∀ s t : State, step s = .next t → s.run = .running ∧
    (t.run = .running ∨ (t.run = .halted ∧ s.fetch = .ok .hlt) ∨
      (s.fetch = .error .incompleteInstruction ∧ t = { s with run := .faulted .incompleteInstruction }))

/-- 20_memory.md R69, 70_reset_and_hazards.md R387: an instruction stored at pc, as its bytes in memory, is what the very
next step runs. The stored bytes have indexes of their own. -/
def Obligations.StoredInstructionRunsNext : Prop :=
  ∀ (s : State) (i : Instr), Inv s → s.run = .running → i.wf s.params.undefPolicy = true →
    (∀ k : Nat, k < i.length → s.inWindow (s.pc + BitVec.ofNat 16 k) = true) →
    (∀ j k : Nat, j < k → k < i.length → s.phys (s.pc + BitVec.ofNat 16 j) ≠ s.phys (s.pc + BitVec.ofNat 16 k)) →
    step (s.loadBytes s.pc (encode i)) =
      exec i ((s.loadBytes s.pc (encode i)).setPc (s.pc + BitVec.ofNat 16 i.length))

/-- 70_reset_and_hazards.md R387, 00_scope.md R7: no step changes a parameter, so the fetch window never moves. -/
def Obligations.StepKeepsTheParameters : Prop :=
  ∀ s t : State, step s = .next t → t.params = s.params ∧ ∀ a : Word, t.inWindow a = s.inWindow a

/-- 20_memory.md R50, R51, 00_scope.md R7: every step keeps the parameters in their ranges and memory canonical and within
the capacity. -/
def Obligations.StepKeepsTheInvariant : Prop :=
  ∀ s t : State, Inv s → step s = .next t → Inv t

/-- The reset state, with the values logs 2 to 4 name, meets the invariant. -/
def Obligations.ResetMeetsTheInvariant : Prop := Inv State.reset

/-- 70_reset_and_hazards.md R381, R382, 10_state.md R34, 20_memory.md R62: the start of a run, for any parameters, INIT values
and image that fit. -/
def Obligations.StartOfRunState : Prop :=
  ∀ (p : Params) (init : Init) (image : List Byte), 1 ≤ p.memSize → p.memSize ≤ 65536 → image.length ≤ p.memSize →
    ∃ t, startOfRun p init image = .next t ∧
      t.run = .running ∧ t.pc = p.entry ∧ t.inte = false ∧ t.portLog = [] ∧
      t.regs = init.regs ∧ t.flags = init.flags ∧ t.sp = init.sp ∧
      t.params = { p with imageLen := image.length } ∧ Inv t ∧
      (∀ k : Nat, k < image.length →
        (∀ j : Nat, k < j → j < image.length →
          t.phys (p.base + BitVec.ofNat 16 j) ≠ t.phys (p.base + BitVec.ofNat 16 k)) →
        image[k]? = some (t.memRead (p.base + BitVec.ofNat 16 k))) ∧
      ∀ a : Word, (∀ k : Nat, k < image.length → t.phys a ≠ t.phys (p.base + BitVec.ofNat 16 k)) →
        t.memRead a = Memory.read (init.memory p.memSize) (t.phys a)

/-- 20_memory.md R62: an image larger than memory starts no run. -/
def Obligations.OversizedImageIsRefused : Prop :=
  ∀ (p : Params) (init : Init) (image : List Byte), 1 ≤ p.memSize → p.memSize ≤ 65536 → p.memSize < image.length →
    startOfRun p init image = .refused .imageTooLarge

/-- The reset state is the start of a run with the default parameters and no image, for INIT values the model names
(logs 2, 3 and 4; no rule of the spec): R34's own values are the run state, pc = ENTRY = BASE, and INTE. -/
def Obligations.ResetIsAStartOfRun : Prop :=
  startOfRun {} { regs := State.reset.regs, flags := State.reset.flags, sp := State.reset.sp, cells := [] } [] =
    .next State.reset ∧
  State.reset.run = .running ∧ State.reset.pc = State.reset.params.entry ∧
  State.reset.params.entry = State.reset.params.base ∧ State.reset.inte = false ∧ State.reset.portLog = []

/-- 10_state.md R29: EI writes 1 to INTE, DI writes 0, and no rule reads it: two states that differ in INTE alone step to
states that differ in INTE at most, for the same flag draws and the same handler answers. That the two steps see the same
draws and answers is the model's: both are functions of plain data that the two states share (logs 6 and 7). -/
def Obligations.InteIsNeverRead : Prop :=
  ∀ (s t : State) (b : Bool), step s = .next t →
    ∃ u, step (s.setInte b) = .next u ∧ u.setInte t.inte = t ∧
      ((s.fetch = .ok .ei ∧ u.inte = true) ∨ (s.fetch = .ok .di ∧ u.inte = false) ∨
        (s.fetch ≠ .ok .ei ∧ s.fetch ≠ .ok .di ∧ u.inte = b))

/-- 20_memory.md R63, R65: a step makes at most one call of the handler, and only IN and OUT make one. -/
def Obligations.OnlyInAndOutReachThePorts : Prop :=
  ∀ s t : State, step s = .next t →
    t.portLog = s.portLog ∨
    (s.params.portHandler ≠ .absent ∧ ∃ port : Byte,
      (s.fetch = .ok (.inp port) ∧ t.portLog = s.portLog ++ [.read port]) ∨
      (s.fetch = .ok (.out port) ∧ t.portLog = s.portLog ++ [.write port s.regs.a]))

/-- 10_state.md R33, 41_alu_flags.md R158, 20_memory.md R59, 40_execution_cycle.md R129: every instruction completes in
every state, and changes nothing but what the tables of writers list for it. -/
def Obligations.EveryInstructionCompletesWithinItsFrame : Prop :=
  ∀ (i : Instr) (s : State), Memory.wf s.mem = true → ∃ t, exec i s = .next t ∧ Frame (may i s) s t

/-! ### Memory, pairs and flags -/

/-- 20_memory.md R51, R52, R53: a byte read after a byte written, at every address; a read answers the same twice. -/
def Obligations.ByteReadAfterByteWrite : Prop :=
  ∀ (s : State) (a b : Word) (v : Byte), Memory.wf s.mem = true →
    (s.memWrite a v).memRead b =
      (if b.toNat % s.params.memSize = a.toNat % s.params.memSize then v else s.memRead b) ∧
    (a.toNat % s.params.memSize = b.toNat % s.params.memSize → s.memRead a = s.memRead b)

/-- 20_memory.md R54, R55: 16-bit accesses are little-endian, two bytes, the second address wrapping at 16 bits; where both
bytes share an index the high byte is left. -/
def Obligations.WordAccessesAreLittleEndian : Prop :=
  ∀ (s : State) (a v b : Word), Memory.wf s.mem = true →
    (s.memRead16 a).toNat = (s.memRead (a + 1)).toNat * 256 + (s.memRead a).toNat ∧
    (s.phys (a + 1) ≠ s.phys a → (s.memWrite16 a v).memRead16 a = v) ∧
    (s.memWrite16 a v).memRead b =
      (if s.phys b = s.phys (a + 1) then hiByte v else if s.phys b = s.phys a then loByte v else s.memRead b)

/-- 20_memory.md R56: a push leaves the high byte at SP - 1 and the low byte at SP - 2; a pop gives the
value back where the two bytes have indexes of their own (log 13). -/
def Obligations.PopGivesBackThePushedWord : Prop :=
  ∀ (s : State) (v : Word), Memory.wf s.mem = true → s.phys (s.sp - 1) ≠ s.phys (s.sp - 2) →
    (s.push16 v).sp = s.sp - 2 ∧ (s.push16 v).memRead (s.sp - 1) = hiByte v ∧
    (s.push16 v).memRead (s.sp - 2) = loByte v ∧ (s.push16 v).top16 = v ∧ (s.push16 v).dropTop16.sp = s.sp

/-- 10_state.md R23: a pair is a view over its two registers, the first-named one the high byte. -/
def Obligations.PairsAreViews : Prop :=
  ∀ (s : State) (v : Word) (x : Byte),
    s.bc.toNat = s.regs.b.toNat * 256 + s.regs.c.toNat ∧ s.de.toNat = s.regs.d.toNat * 256 + s.regs.e.toNat ∧
    s.hl.toNat = s.regs.h.toNat * 256 + s.regs.l.toNat ∧
    (s.setBc v).bc = v ∧ (s.setDe v).de = v ∧ (s.setHl v).hl = v ∧
    (s.setBc v).regs = { s.regs with b := BitVec.ofNat 8 (v.toNat / 256), c := BitVec.ofNat 8 v.toNat } ∧
    (s.setDe v).regs = { s.regs with d := BitVec.ofNat 8 (v.toNat / 256), e := BitVec.ofNat 8 v.toNat } ∧
    (s.setHl v).regs = { s.regs with h := BitVec.ofNat 8 (v.toNat / 256), l := BitVec.ofNat 8 v.toNat } ∧
    (s.writeReg .b x).bc = wordOf x s.regs.c ∧ (s.writeReg .c x).bc = wordOf s.regs.b x ∧
    (s.writeReg .d x).de = wordOf x s.regs.e ∧ (s.writeReg .e x).de = wordOf s.regs.d x ∧
    (s.writeReg .h x).hl = wordOf x s.regs.l ∧ (s.writeReg .l x).hl = wordOf s.regs.h x

/-- 10_state.md R27: the flag byte is S Z 0 AC 0 P 1 CY; unpacking reads the five bits and drops the others. -/
def Obligations.FlagByteLayout : Prop :=
  ∀ (f : Flags) (v : Byte),
    f.pack.toNat = f.s.toNat * 128 + f.z.toNat * 64 + f.ac.toNat * 16 + f.p.toNat * 4 + 2 + f.cy.toNat ∧
    Flags.unpack f.pack = f ∧
    ((Flags.unpack v).s = true ↔ v.toNat / 128 % 2 = 1) ∧ ((Flags.unpack v).z = true ↔ v.toNat / 64 % 2 = 1) ∧
    ((Flags.unpack v).ac = true ↔ v.toNat / 16 % 2 = 1) ∧ ((Flags.unpack v).p = true ↔ v.toNat / 4 % 2 = 1) ∧
    ((Flags.unpack v).cy = true ↔ v.toNat % 2 = 1)

/-! ### Data movement -/

/-- 42_data_movement.md R171, R172, R173: MOV copies one byte between registers and M. -/
def Obligations.MovCopiesOneByte : Prop :=
  ∀ (dst src : Reg) (s : State), Memory.wf s.mem = true →
    (encode (.movRR dst src) = [opcodeOf 0b01 dst.code src.code] ∧
      ∃ t, exec (.movRR dst src) s = .next t ∧ t.readReg dst = s.readReg src ∧ Frame { regs := [dst] } s t) ∧
    (encode (.movRM dst) = [opcodeOf 0b01 dst.code 0b110] ∧
      ∃ t, exec (.movRM dst) s = .next t ∧ t.readReg dst = s.memRead s.hl ∧ Frame { regs := [dst] } s t) ∧
    (encode (.movMR src) = [opcodeOf 0b01 0b110 src.code] ∧
      ∃ t, exec (.movMR src) s = .next t ∧ t.memRead s.hl = s.readReg src ∧ Frame { stored := [s.hl] } s t)

/-- 42_data_movement.md R174, R175: MVI puts its immediate into a register or into M. -/
def Obligations.MviPutsTheImmediate : Prop :=
  ∀ (dst : RegM) (d8 : Byte) (s : State), Memory.wf s.mem = true →
    encode (.mvi dst d8) = [opcodeOf 0b00 dst.code 0b110, d8] ∧ FaultsAtFetchOnly (.mvi dst d8) ∧
    ∃ t, exec (.mvi dst d8) s = .next t ∧ operandAfter s t dst = d8 ∧ Frame (May.rm s dst []) s t

/-- 42_data_movement.md R176: LXI puts its immediate into a pair or SP. -/
def Obligations.LxiLoadsTheWord : Prop :=
  ∀ (rp : Pair) (d16 : Word) (s : State),
    encode (.lxi rp d16) = [opcodeOf 0b00 (rp.code ++ 0#1) 0b001, loByte d16, hiByte d16] ∧
    FaultsAtFetchOnly (.lxi rp d16) ∧
    ∃ t, exec (.lxi rp d16) s = .next t ∧ t.readPair rp = d16 ∧ Frame (May.pair rp) s t

/-- 42_data_movement.md R177, R181: LDA and LDAX load A from memory. -/
def Obligations.LdaAndLdaxLoadTheAccumulator : Prop :=
  ∀ (a16 : Word) (rp : PtrPair) (s : State),
    (encode (.lda a16) = [0x3A, loByte a16, hiByte a16] ∧ FaultsAtFetchOnly (.lda a16) ∧
      ∃ t, exec (.lda a16) s = .next t ∧ t.regs.a = s.memRead a16 ∧ Frame (May.acc []) s t) ∧
    (encode (.ldax .bc) = [0x0A] ∧ encode (.ldax .de) = [0x1A] ∧
      ∃ t, exec (.ldax rp) s = .next t ∧
        t.regs.a = s.memRead (match rp with | .bc => s.bc | .de => s.de) ∧ Frame (May.acc []) s t)

/-- 42_data_movement.md R178, R182: STA and STAX store A. -/
def Obligations.StaAndStaxStoreTheAccumulator : Prop :=
  ∀ (a16 : Word) (rp : PtrPair) (s : State), Memory.wf s.mem = true →
    (encode (.sta a16) = [0x32, loByte a16, hiByte a16] ∧ FaultsAtFetchOnly (.sta a16) ∧
      ∃ t, exec (.sta a16) s = .next t ∧ t.memRead a16 = s.regs.a ∧ Frame { stored := [a16] } s t) ∧
    (encode (.stax .bc) = [0x02] ∧ encode (.stax .de) = [0x12] ∧
      ∃ t, exec (.stax rp) s = .next t ∧ t.memRead (s.ptr rp) = s.regs.a ∧ Frame { stored := [s.ptr rp] } s t)

/-- 42_data_movement.md R179: LHLD loads L from the address and H from the next one. -/
def Obligations.LhldLoadsLThenH : Prop :=
  ∀ (a16 : Word) (s : State),
    encode (.lhld a16) = [0x2A, loByte a16, hiByte a16] ∧ FaultsAtFetchOnly (.lhld a16) ∧
    ∃ t, exec (.lhld a16) s = .next t ∧ t.regs.l = s.memRead a16 ∧ t.regs.h = s.memRead (a16 + 1) ∧
      Frame { regs := [.h, .l] } s t

/-- 42_data_movement.md R180: SHLD stores L at the address and then H at the next one. -/
def Obligations.ShldStoresLThenH : Prop :=
  ∀ (a16 : Word) (s : State), Memory.wf s.mem = true →
    encode (.shld a16) = [0x22, loByte a16, hiByte a16] ∧ FaultsAtFetchOnly (.shld a16) ∧
    ∃ t, exec (.shld a16) s = .next t ∧ t.memRead (a16 + 1) = s.regs.h ∧
      t.memRead a16 = (if s.phys a16 = s.phys (a16 + 1) then s.regs.h else s.regs.l) ∧
      Frame { stored := [a16, a16 + 1] } s t

/-- 42_data_movement.md R183: XCHG exchanges DE and HL, and twice restores the state. -/
def Obligations.XchgExchangesDeAndHl : Prop :=
  ∀ s : State, encode .xchg = [0xEB] ∧
    ∃ t, exec .xchg s = .next t ∧ t.de = s.hl ∧ t.hl = s.de ∧ Frame { regs := [.d, .e, .h, .l] } s t ∧
      exec .xchg t = .next s

/-! ### Arithmetic -/

/-- 43_arithmetic.md R201 to R206, 41_alu_flags.md R142: ADD, ADI, ADC and ACI, with their encodings. -/
def Obligations.AdditionsSetSumAndFiveFlags : Prop :=
  ∀ (x : RegM) (d8 : Byte) (s : State),
    (encode (.add x) = [opcodeOf 0b10 0b000 x.code] ∧ AddsToA (.add x) s (s.readRM x) false) ∧
    (encode (.adi d8) = [0xC6, d8] ∧ FaultsAtFetchOnly (.adi d8) ∧
      AddsToA (.adi d8) s d8 false) ∧
    (encode (.adc x) = [opcodeOf 0b10 0b001 x.code] ∧ AddsToA (.adc x) s (s.readRM x) s.flags.cy) ∧
    (encode (.aci d8) = [0xCE, d8] ∧ FaultsAtFetchOnly (.aci d8) ∧
      AddsToA (.aci d8) s d8 s.flags.cy)

/-- 43_arithmetic.md R207 to R212, 41_alu_flags.md R143: SUB, SUI, SBB and SBI, with their encodings. -/
def Obligations.SubtractionsSetDifferenceAndFiveFlags : Prop :=
  ∀ (x : RegM) (d8 : Byte) (s : State),
    (encode (.sub x) = [opcodeOf 0b10 0b010 x.code] ∧ SubtractsFromA (.sub x) s (s.readRM x) false) ∧
    (encode (.sui d8) = [0xD6, d8] ∧ FaultsAtFetchOnly (.sui d8) ∧
      SubtractsFromA (.sui d8) s d8 false) ∧
    (encode (.sbb x) = [opcodeOf 0b10 0b011 x.code] ∧ SubtractsFromA (.sbb x) s (s.readRM x) s.flags.cy) ∧
    (encode (.sbi d8) = [0xDE, d8] ∧ FaultsAtFetchOnly (.sbi d8) ∧
      SubtractsFromA (.sbi d8) s d8 s.flags.cy)

/-- 43_arithmetic.md R221 to R223: CMP and CPI set the flags of the subtraction and write no register. -/
def Obligations.ComparisonsSetFlagsOnly : Prop :=
  ∀ (x : RegM) (d8 : Byte) (s : State),
    (encode (.cmp x) = [opcodeOf 0b10 0b111 x.code] ∧ ComparesWithA (.cmp x) s (s.readRM x)) ∧
    (encode (.cpi d8) = [0xFE, d8] ∧ FaultsAtFetchOnly (.cpi d8) ∧
      ComparesWithA (.cpi d8) s d8)

/-- 43_arithmetic.md R213 to R216, 41_alu_flags.md R147, R148: INR and DCR of a register or M, under both profiles. -/
def Obligations.InrAndDcrStepTheOperand : Prop :=
  ∀ (x : RegM) (s : State), Memory.wf s.mem = true →
    (encode (.inr x) = [opcodeOf 0b00 x.code 0b100] ∧
      ∃ t, exec (.inr x) s = .next t ∧ (operandAfter s t x).toNat = ((s.readRM x).toNat + 1) % 256 ∧
        (t.flags.ac = true ↔ (s.readRM x).toNat % 16 = 15) ∧ SzpOf t.flags (operandAfter s t x) ∧
        (s.params.flagProfile = .canonical → t.flags.cy = s.flags.cy) ∧
        (s.params.flagProfile = .docLiteral → (t.flags.cy = true ↔ s.readRM x = 0xFF)) ∧
        Frame (May.rm s x Flag.all) s t) ∧
    (encode (.dcr x) = [opcodeOf 0b00 x.code 0b101] ∧
      ∃ t, exec (.dcr x) s = .next t ∧ (operandAfter s t x).toNat = ((s.readRM x).toNat + 255) % 256 ∧
        (t.flags.ac = true ↔ (s.readRM x).toNat % 16 ≠ 0) ∧ SzpOf t.flags (operandAfter s t x) ∧
        (s.params.flagProfile = .canonical → t.flags.cy = s.flags.cy) ∧
        (s.params.flagProfile = .docLiteral → (t.flags.cy = true ↔ s.readRM x = 0x00)) ∧
        Frame (May.rm s x Flag.all) s t)

/-- 43_arithmetic.md R217, R218, 41_alu_flags.md R150: INX and DCX of a pair or SP. Under `canonical` no flag changes;
under `doc_literal` CY is the carry or borrow out of 16 bits and S, Z, P, AC are draws, whatever they are; how a draw is held
is the model's (log 7). -/
def Obligations.InxAndDcxStepThePair : Prop :=
  ∀ (rp : Pair) (s : State),
    (encode (.inx rp) = [opcodeOf 0b00 (rp.code ++ 0#1) 0b011] ∧
      ∃ t, exec (.inx rp) s = .next t ∧ (t.readPair rp).toNat = ((s.readPair rp).toNat + 1) % 65536 ∧
        (s.params.flagProfile = .canonical → Frame (May.pair rp) s t) ∧
        (s.params.flagProfile = .docLiteral → (t.flags.cy = true ↔ s.readPair rp = 0xFFFF) ∧ Drawn s t) ∧
        Frame { May.pair rp with flags := Flag.all, draws := true } s t) ∧
    (encode (.dcx rp) = [opcodeOf 0b00 (rp.code ++ 1#1) 0b011] ∧
      ∃ t, exec (.dcx rp) s = .next t ∧ (t.readPair rp).toNat = ((s.readPair rp).toNat + 65535) % 65536 ∧
        (s.params.flagProfile = .canonical → Frame (May.pair rp) s t) ∧
        (s.params.flagProfile = .docLiteral → (t.flags.cy = true ↔ s.readPair rp = 0x0000) ∧ Drawn s t) ∧
        Frame { May.pair rp with flags := Flag.all, draws := true } s t)

/-- 43_arithmetic.md R219, 41_alu_flags.md R149: DAD adds a pair or SP to HL; CY is the carry out of 16 bits; the other
flags are unchanged under `canonical` and draws under `doc_literal`, held as log 7 says. -/
def Obligations.DadAddsToHl : Prop :=
  ∀ (rp : Pair) (s : State),
    encode (.dad rp) = [opcodeOf 0b00 (rp.code ++ 1#1) 0b001] ∧
    ∃ t, exec (.dad rp) s = .next t ∧ t.hl.toNat = (s.hl.toNat + (s.readPair rp).toNat) % 65536 ∧
      (t.flags.cy = true ↔ 65535 < s.hl.toNat + (s.readPair rp).toNat) ∧
      (s.params.flagProfile = .canonical → Frame { regs := [.h, .l], flags := [.cy] } s t) ∧
      (s.params.flagProfile = .docLiteral → Drawn s t) ∧
      Frame { regs := [.h, .l], flags := Flag.all, draws := true } s t

/-- 43_arithmetic.md R220, 41_alu_flags.md R154: DAA. CY is set or kept, never cleared. -/
def Obligations.DaaAdjustsTheAccumulator : Prop :=
  ∀ s : State, encode .daa = [0x27] ∧
    ∃ t lowFix highFix, exec .daa s = .next t ∧
      (lowFix = 6 ∧ (9 < s.regs.a.toNat % 16 ∨ s.flags.ac = true) ∨
        lowFix = 0 ∧ ¬(9 < s.regs.a.toNat % 16 ∨ s.flags.ac = true)) ∧
      (highFix = 96 ∧ (9 < s.regs.a.toNat / 16 ∨ s.flags.cy = true ∨
          9 ≤ s.regs.a.toNat / 16 ∧ 9 < s.regs.a.toNat % 16) ∨
        highFix = 0 ∧ ¬(9 < s.regs.a.toNat / 16 ∨ s.flags.cy = true ∨
          9 ≤ s.regs.a.toNat / 16 ∧ 9 < s.regs.a.toNat % 16)) ∧
      t.regs.a.toNat = (s.regs.a.toNat + lowFix + highFix) % 256 ∧
      (t.flags.ac = true ↔ 15 < s.regs.a.toNat % 16 + lowFix) ∧
      (t.flags.cy = true ↔ s.flags.cy = true ∨ highFix = 96) ∧
      SzpOf t.flags t.regs.a ∧ Frame (May.acc Flag.all) s t

/-- R142, R154: an addition of two packed decimal bytes followed by DAA is decimal addition, with CY its carry. -/
def Obligations.DecimalAdditionThroughDaa : Prop :=
  ∀ (s : State) (x y : Nat), x < 100 → y < 100 → s.regs.a = bcd x →
    ∃ t u, exec (.aci (bcd y)) s = .next t ∧ exec .daa t = .next u ∧
      u.regs.a = bcd ((x + y + s.flags.cy.toNat) % 100) ∧
      (u.flags.cy = true ↔ 100 ≤ x + y + s.flags.cy.toNat)

/-- 43_arithmetic.md R224: an instruction and its inverse restore the operand register, pair, byte or SP. -/
def Obligations.InverseInstructionsRestoreTheOperand : Prop :=
  ∀ (r : Reg) (rp : Pair) (d8 : Byte) (s : State), Memory.wf s.mem = true →
    (after (.dcr (.reg r)) (after (.inr (.reg r)) s)).regs = s.regs ∧
    (after (.inr (.reg r)) (after (.dcr (.reg r)) s)).regs = s.regs ∧
    (∀ a : Word, (after (.dcr .m) (after (.inr .m) s)).memRead a = s.memRead a) ∧
    (after (.dcx rp) (after (.inx rp) s)).readPair rp = s.readPair rp ∧
    (after (.inx rp) (after (.dcx rp) s)).readPair rp = s.readPair rp ∧
    (after (.sui d8) (after (.adi d8) s)).regs = s.regs ∧
    (r ≠ .a → (after (.sub (.reg r)) (after (.add (.reg r)) s)).regs = s.regs)

/-! ### Logical, rotate and carry -/

/-- 44_logical.md R241 to R243, 41_alu_flags.md R144: ANA and ANI, with AC as ANA_AC says. -/
def Obligations.AndClearsCarry : Prop :=
  ∀ (x : RegM) (d8 : Byte) (s : State),
    (encode (.ana x) = [opcodeOf 0b10 0b100 x.code] ∧
      LogicToA (.ana x) s (fun p q => p && q) (s.readRM x)
        (s.params.anaAc == .orBit3 && (s.regs.a.getLsbD 3 || (s.readRM x).getLsbD 3))) ∧
    (encode (.ani d8) = [0xE6, d8] ∧ FaultsAtFetchOnly (.ani d8) ∧
      LogicToA (.ani d8) s (fun p q => p && q) d8
        (s.params.anaAc == .orBit3 && (s.regs.a.getLsbD 3 || d8.getLsbD 3)))

/-- 44_logical.md R244 to R249, 41_alu_flags.md R145, R146: XRA, XRI, ORA and ORI clear CY and AC. -/
def Obligations.XorAndOrClearCarries : Prop :=
  ∀ (x : RegM) (d8 : Byte) (s : State),
    (encode (.xra x) = [opcodeOf 0b10 0b101 x.code] ∧
      LogicToA (.xra x) s (fun p q => p != q) (s.readRM x) false) ∧
    (encode (.xri d8) = [0xEE, d8] ∧ FaultsAtFetchOnly (.xri d8) ∧
      LogicToA (.xri d8) s (fun p q => p != q) d8 false) ∧
    (encode (.ora x) = [opcodeOf 0b10 0b110 x.code] ∧
      LogicToA (.ora x) s (fun p q => p || q) (s.readRM x) false) ∧
    (encode (.ori d8) = [0xF6, d8] ∧ FaultsAtFetchOnly (.ori d8) ∧
      LogicToA (.ori d8) s (fun p q => p || q) d8 false)

/-- 44_logical.md R250 to R253, 41_alu_flags.md R152: the rotates move each bit by one place and change only A and CY. -/
def Obligations.RotatesMoveEachBit : Prop :=
  ∀ s : State,
    (encode .rlc = [0x07] ∧ ∃ t, exec .rlc s = .next t ∧ t.regs.a.getLsbD 0 = s.regs.a.getLsbD 7 ∧
      (∀ k : Nat, k < 7 → t.regs.a.getLsbD (k + 1) = s.regs.a.getLsbD k) ∧
      t.flags.cy = s.regs.a.getLsbD 7 ∧ Frame (May.acc [.cy]) s t) ∧
    (encode .rrc = [0x0F] ∧ ∃ t, exec .rrc s = .next t ∧ t.regs.a.getLsbD 7 = s.regs.a.getLsbD 0 ∧
      (∀ k : Nat, k < 7 → t.regs.a.getLsbD k = s.regs.a.getLsbD (k + 1)) ∧
      t.flags.cy = s.regs.a.getLsbD 0 ∧ Frame (May.acc [.cy]) s t) ∧
    (encode .ral = [0x17] ∧ ∃ t, exec .ral s = .next t ∧ t.regs.a.getLsbD 0 = s.flags.cy ∧
      (∀ k : Nat, k < 7 → t.regs.a.getLsbD (k + 1) = s.regs.a.getLsbD k) ∧
      t.flags.cy = s.regs.a.getLsbD 7 ∧ Frame (May.acc [.cy]) s t) ∧
    (encode .rar = [0x1F] ∧ ∃ t, exec .rar s = .next t ∧ t.regs.a.getLsbD 7 = s.flags.cy ∧
      (∀ k : Nat, k < 7 → t.regs.a.getLsbD k = s.regs.a.getLsbD (k + 1)) ∧
      t.flags.cy = s.regs.a.getLsbD 0 ∧ Frame (May.acc [.cy]) s t)

/-- 44_logical.md R252: nine RALs restore A and CY together; so do nine RARs, and RAR undoes RAL. -/
def Obligations.NineRotatesThroughCarryRestore : Prop :=
  ∀ s : State, (after .ral)^[9] s = s ∧ (after .rar)^[9] s = s ∧ after .rar (after .ral s) = s

/-- 44_logical.md R254, R255, R256, 41_alu_flags.md R151: CMA, CMC and STC. -/
def Obligations.ComplementAndCarryControl : Prop :=
  ∀ s : State,
    (encode .cma = [0x2F] ∧ ∃ t, exec .cma s = .next t ∧ t.regs.a.toNat = 255 - s.regs.a.toNat ∧
      (s.params.flagProfile = .canonical → Frame (May.acc []) s t) ∧
      (s.params.flagProfile = .docLiteral → SzpOf t.flags t.regs.a) ∧ Frame (May.acc [.s, .z, .p]) s t) ∧
    (encode .cmc = [0x3F] ∧ ∃ t, exec .cmc s = .next t ∧ t.flags.cy = !s.flags.cy ∧ Frame { flags := [.cy] } s t) ∧
    (encode .stc = [0x37] ∧ ∃ t, exec .stc s = .next t ∧ t.flags.cy = true ∧ Frame { flags := [.cy] } s t)

/-! ### Control flow -/

/-- 45_control_flow.md R271, R272, R278, 41_alu_flags.md R153: JMP, the eight Jcc and PCHL set pc when they jump and change
nothing else. -/
def Obligations.JumpsSetPcAlone : Prop :=
  ∀ (w : Word) (s : State),
    (encode (.jmp w) = [0xC3, loByte w, hiByte w] ∧ FaultsAtFetchOnly (.jmp w) ∧
      exec (.jmp w) s = .next { s with pc := w }) ∧
    (encode .pchl = [0xE9] ∧ exec .pchl s = .next { s with pc := s.hl }) ∧
    (encode (.jnz w) = [0xC2, loByte w, hiByte w] ∧ FaultsAtFetchOnly (.jnz w) ∧
      exec (.jnz w) s = .next (if s.flags.z = false then { s with pc := w } else s)) ∧
    (encode (.jz w) = [0xCA, loByte w, hiByte w] ∧ FaultsAtFetchOnly (.jz w) ∧
      exec (.jz w) s = .next (if s.flags.z = true then { s with pc := w } else s)) ∧
    (encode (.jnc w) = [0xD2, loByte w, hiByte w] ∧ FaultsAtFetchOnly (.jnc w) ∧
      exec (.jnc w) s = .next (if s.flags.cy = false then { s with pc := w } else s)) ∧
    (encode (.jc w) = [0xDA, loByte w, hiByte w] ∧ FaultsAtFetchOnly (.jc w) ∧
      exec (.jc w) s = .next (if s.flags.cy = true then { s with pc := w } else s)) ∧
    (encode (.jpo w) = [0xE2, loByte w, hiByte w] ∧ FaultsAtFetchOnly (.jpo w) ∧
      exec (.jpo w) s = .next (if s.flags.p = false then { s with pc := w } else s)) ∧
    (encode (.jpe w) = [0xEA, loByte w, hiByte w] ∧ FaultsAtFetchOnly (.jpe w) ∧
      exec (.jpe w) s = .next (if s.flags.p = true then { s with pc := w } else s)) ∧
    (encode (.jp w) = [0xF2, loByte w, hiByte w] ∧ FaultsAtFetchOnly (.jp w) ∧
      exec (.jp w) s = .next (if s.flags.s = false then { s with pc := w } else s)) ∧
    (encode (.jm w) = [0xFA, loByte w, hiByte w] ∧ FaultsAtFetchOnly (.jm w) ∧
      exec (.jm w) s = .next (if s.flags.s = true then { s with pc := w } else s))

/-- 45_control_flow.md R273, R274, R277: CALL, the eight Ccc when their condition holds, and RST push the return address and
jump; a Ccc whose condition does not hold changes nothing. -/
def Obligations.CallsPushTheReturnAddress : Prop :=
  ∀ (w : Word) (n : BitVec 3) (s : State), Memory.wf s.mem = true →
    (encode (.call w) = [0xCD, loByte w, hiByte w] ∧ FaultsAtFetchOnly (.call w) ∧
      CallsTo (.call w) s w) ∧
    (encode (.rst n) = [opcodeOf 0b11 n 0b111] ∧ CallsTo (.rst n) s (BitVec.ofNat 16 (n.toNat * 8))) ∧
    (encode (.cnz w) = [0xC4, loByte w, hiByte w] ∧ FaultsAtFetchOnly (.cnz w) ∧
      (if s.flags.z = false then CallsTo (.cnz w) s w else exec (.cnz w) s = .next s)) ∧
    (encode (.cz w) = [0xCC, loByte w, hiByte w] ∧ FaultsAtFetchOnly (.cz w) ∧
      (if s.flags.z = true then CallsTo (.cz w) s w else exec (.cz w) s = .next s)) ∧
    (encode (.cnc w) = [0xD4, loByte w, hiByte w] ∧ FaultsAtFetchOnly (.cnc w) ∧
      (if s.flags.cy = false then CallsTo (.cnc w) s w else exec (.cnc w) s = .next s)) ∧
    (encode (.cc w) = [0xDC, loByte w, hiByte w] ∧ FaultsAtFetchOnly (.cc w) ∧
      (if s.flags.cy = true then CallsTo (.cc w) s w else exec (.cc w) s = .next s)) ∧
    (encode (.cpo w) = [0xE4, loByte w, hiByte w] ∧ FaultsAtFetchOnly (.cpo w) ∧
      (if s.flags.p = false then CallsTo (.cpo w) s w else exec (.cpo w) s = .next s)) ∧
    (encode (.cpe w) = [0xEC, loByte w, hiByte w] ∧ FaultsAtFetchOnly (.cpe w) ∧
      (if s.flags.p = true then CallsTo (.cpe w) s w else exec (.cpe w) s = .next s)) ∧
    (encode (.cp w) = [0xF4, loByte w, hiByte w] ∧ FaultsAtFetchOnly (.cp w) ∧
      (if s.flags.s = false then CallsTo (.cp w) s w else exec (.cp w) s = .next s)) ∧
    (encode (.cm w) = [0xFC, loByte w, hiByte w] ∧ FaultsAtFetchOnly (.cm w) ∧
      (if s.flags.s = true then CallsTo (.cm w) s w else exec (.cm w) s = .next s))

/-- 45_control_flow.md R275, R276: RET and the eight Rcc when their condition holds pop pc; an Rcc whose condition does not
hold changes nothing. -/
def Obligations.ReturnsPopPc : Prop :=
  ∀ s : State,
    (encode .ret = [0xC9] ∧ Returns .ret s) ∧
    (encode .rnz = [0xC0] ∧ (if s.flags.z = false then Returns .rnz s else exec .rnz s = .next s)) ∧
    (encode .rz = [0xC8] ∧ (if s.flags.z = true then Returns .rz s else exec .rz s = .next s)) ∧
    (encode .rnc = [0xD0] ∧ (if s.flags.cy = false then Returns .rnc s else exec .rnc s = .next s)) ∧
    (encode .rc = [0xD8] ∧ (if s.flags.cy = true then Returns .rc s else exec .rc s = .next s)) ∧
    (encode .rpo = [0xE0] ∧ (if s.flags.p = false then Returns .rpo s else exec .rpo s = .next s)) ∧
    (encode .rpe = [0xE8] ∧ (if s.flags.p = true then Returns .rpe s else exec .rpe s = .next s)) ∧
    (encode .rp = [0xF0] ∧ (if s.flags.s = false then Returns .rp s else exec .rp s = .next s)) ∧
    (encode .rm = [0xF8] ∧ (if s.flags.s = true then Returns .rm s else exec .rm s = .next s))

/-- R273, R275, R277: a return right after a call or restart comes back to the byte after it, with SP as before (where the
pushed bytes have indexes of their own, log 13). -/
def Obligations.ReturnAfterCallComesBack : Prop :=
  ∀ (w : Word) (n : BitVec 3) (s : State), Memory.wf s.mem = true → s.phys (s.sp - 1) ≠ s.phys (s.sp - 2) →
    (∃ t u, exec (.call w) s = .next t ∧ exec .ret t = .next u ∧ u.pc = s.pc ∧ u.sp = s.sp ∧ u.regs = s.regs ∧
      u.flags = s.flags) ∧
    (∃ t u, exec (.rst n) s = .next t ∧ exec .ret t = .next u ∧ u.pc = s.pc ∧ u.sp = s.sp ∧ u.regs = s.regs ∧
      u.flags = s.flags)

/-! ### Stack -/

/-- 46_stack.md R301, R302: PUSH stores the high register, or A, at SP - 1 and the low register, or the flag byte, at
SP - 2, the latter last. -/
def Obligations.PushStoresTheWord : Prop :=
  ∀ (rp : StackPair) (s : State), Memory.wf s.mem = true →
    encode (.push rp) = [opcodeOf 0b11 (rp.code ++ 0#1) 0b101] ∧
    ∃ t hi lo, exec (.push rp) s = .next t ∧
      (hi, lo) = (match rp with
        | .bc => (s.regs.b, s.regs.c)
        | .de => (s.regs.d, s.regs.e)
        | .hl => (s.regs.h, s.regs.l)
        | .psw => (s.regs.a, BitVec.ofNat 8 (s.flags.s.toNat * 128 + s.flags.z.toNat * 64 + s.flags.ac.toNat * 16 +
            s.flags.p.toNat * 4 + 2 + s.flags.cy.toNat))) ∧
      t.sp = s.sp - 2 ∧ t.memRead (s.sp - 2) = lo ∧
      t.memRead (s.sp - 1) = (if s.phys (s.sp - 1) = s.phys (s.sp - 2) then lo else hi) ∧
      Frame { sp := true, stored := [s.sp - 1, s.sp - 2] } s t

/-- 46_stack.md R303, R304: POP loads the low register, or the flags, from SP and the high register, or A, from SP + 1. -/
def Obligations.PopLoadsTheWord : Prop :=
  ∀ s : State,
    (encode (.pop .bc) = [0xC1] ∧ ∃ t, exec (.pop .bc) s = .next t ∧ t.regs.c = s.memRead s.sp ∧
      t.regs.b = s.memRead (s.sp + 1) ∧ t.sp = s.sp + 2 ∧ Frame { sp := true, regs := [.b, .c] } s t) ∧
    (encode (.pop .de) = [0xD1] ∧ ∃ t, exec (.pop .de) s = .next t ∧ t.regs.e = s.memRead s.sp ∧
      t.regs.d = s.memRead (s.sp + 1) ∧ t.sp = s.sp + 2 ∧ Frame { sp := true, regs := [.d, .e] } s t) ∧
    (encode (.pop .hl) = [0xE1] ∧ ∃ t, exec (.pop .hl) s = .next t ∧ t.regs.l = s.memRead s.sp ∧
      t.regs.h = s.memRead (s.sp + 1) ∧ t.sp = s.sp + 2 ∧ Frame { sp := true, regs := [.h, .l] } s t) ∧
    (encode (.pop .psw) = [0xF1] ∧ ∃ t, exec (.pop .psw) s = .next t ∧
      t.flags.s = (s.memRead s.sp).getLsbD 7 ∧ t.flags.z = (s.memRead s.sp).getLsbD 6 ∧
      t.flags.ac = (s.memRead s.sp).getLsbD 4 ∧ t.flags.p = (s.memRead s.sp).getLsbD 2 ∧
      t.flags.cy = (s.memRead s.sp).getLsbD 0 ∧
      t.regs.a = s.memRead (s.sp + 1) ∧ t.sp = s.sp + 2 ∧
      Frame { sp := true, regs := [.a], flags := Flag.all } s t)

/-- 46_stack.md R307: PUSH then POP of one pair restores the pair, SP, A and the flags; the pushed bytes stay in memory.
PUSH rp then POP of another pair moves the word. -/
def Obligations.PushThenPopRestores : Prop :=
  ∀ (p q : StackPair) (s : State), Memory.wf s.mem = true → s.phys (s.sp - 1) ≠ s.phys (s.sp - 2) →
    (after (.pop p) (after (.push p) s)).regs = s.regs ∧ (after (.pop p) (after (.push p) s)).flags = s.flags ∧
    (after (.pop p) (after (.push p) s)).sp = s.sp ∧
    (after (.pop p) (after (.push p) s)).memRead (s.sp - 1) = hiByte (s.readStackPair p) ∧
    (after (.pop p) (after (.push p) s)).memRead (s.sp - 2) = loByte (s.readStackPair p) ∧
    (q ≠ .psw → (after (.pop q) (after (.push p) s)).readStackPair q = s.readStackPair p)

/-- 46_stack.md R305, R306: XTHL exchanges HL with the word at SP, H's byte written last; SPHL copies HL to SP. -/
def Obligations.XthlExchangesAndSphlCopies : Prop :=
  ∀ s : State, Memory.wf s.mem = true →
    (encode .xthl = [0xE3] ∧ ∃ t, exec .xthl s = .next t ∧ t.regs.l = s.memRead s.sp ∧
      t.regs.h = s.memRead (s.sp + 1) ∧ t.memRead (s.sp + 1) = s.regs.h ∧
      t.memRead s.sp = (if s.phys s.sp = s.phys (s.sp + 1) then s.regs.h else s.regs.l) ∧
      Frame { regs := [.h, .l], stored := [s.sp, s.sp + 1] } s t) ∧
    (encode .sphl = [0xF9] ∧ ∃ t, exec .sphl s = .next t ∧ t.sp = s.hl ∧ Frame { sp := true } s t)

/-! ### I/O and machine control -/

/-- 47_io_machine_control.md R321, R322, 20_memory.md R64: IN and OUT, with and without a handler. The answer of a handler
is one it names, or else a free value; PORT_SENTINEL is free too. How they and the log are held is the model's (logs 5, 6
and 8). -/
def Obligations.InAndOutUseThePort : Prop :=
  ∀ (port : Byte) (s : State),
    (encode (.inp port) = [0xDB, port] ∧ FaultsAtFetchOnly (.inp port) ∧ ∃ t, exec (.inp port) s = .next t ∧
      (s.params.portHandler = .absent → t.regs.a = Config.portSentinel ∧ t.portLog = s.portLog) ∧
      (∀ answers, s.params.portHandler = .present answers →
        t.regs.a = (answers[s.readCount]?).getD (Config.portAnswer s.portLog port) ∧
        t.portLog = s.portLog ++ [.read port] ∧ t.readCount = s.readCount + 1) ∧
      Frame { regs := [.a], ports := true } s t) ∧
    (encode (.out port) = [0xD3, port] ∧ FaultsAtFetchOnly (.out port) ∧ ∃ t, exec (.out port) s = .next t ∧
      (s.params.portHandler = .absent → t = s) ∧
      (s.params.portHandler ≠ .absent → t.portLog = s.portLog ++ [.write port s.regs.a]) ∧
      Frame { ports := true } s t)

/-- 47_io_machine_control.md R323 to R326: EI, DI, HLT and NOP, executed and as a step, which leaves pc at the next byte. -/
def Obligations.EiDiHltAndNop : Prop :=
  ∀ s : State,
    (encode .ei = [0xFB] ∧ exec .ei s = .next { s with inte := true } ∧
      (s.run = .running → s.fetch = .ok .ei → step s = .next { s with pc := s.pc + 1, inte := true })) ∧
    (encode .di = [0xF3] ∧ exec .di s = .next { s with inte := false } ∧
      (s.run = .running → s.fetch = .ok .di → step s = .next { s with pc := s.pc + 1, inte := false })) ∧
    (encode .hlt = [0x76] ∧ exec .hlt s = .next { s with run := .halted } ∧
      (s.run = .running → s.fetch = .ok .hlt → step s = .next { s with pc := s.pc + 1, run := .halted })) ∧
    (encode .nop = [0x00] ∧ exec .nop s = .next s ∧
      (s.run = .running → s.fetch = .ok .nop → step s = .next { s with pc := s.pc + 1 }))

/-! ### The disassembler -/

/-- 30_encoding.md R100: the records' bytes and the trailing report's bytes are the stream from the cursor on, in order;
each record's address is BASE plus its place; a report is there exactly where the stream ends inside an instruction. That a cursor past the end lists nothing and reports
nothing is the model's choice (log 17). -/
def Obligations.DisassemblyCoversTheStream : Prop :=
  ∀ (pol : UndefPolicy) (base : Word) (stream : List Byte) (cursor : Nat),
    ∃ records report, disassemble pol base stream cursor = (records, report) ∧
      records.flatMap (fun d => d.bytes) ++ (report.elim [] (fun d => d.bytes)) = stream.drop cursor ∧
      (∀ k d, records[k]? = some d →
        d.address = base + BitVec.ofNat 16 (cursor + ((records.take k).flatMap (fun e => e.bytes)).length) ∧
        ∃ i, decode pol d.bytes = .ok (i, []) ∧ d.text = instrText i) ∧
      (∀ d, report = some d → d.reason = .incompleteInstruction ∧ decode pol d.bytes = .error .incompleteInstruction ∧
        d.bytes ≠ [] ∧
        d.address = base + BitVec.ofNat 16 (cursor + (records.flatMap (fun e => e.bytes)).length))
end

