-- ==== Sys2Proof/Laws/Decode.lean ====
section
/-! SUPPORT. The small laws of bytes and words, and what the decoder answers. -/

namespace Sys2Proof

/-- A word as a number. -/
theorem toNat_wordOf (hi lo : Byte) : (wordOf hi lo).toNat = hi.toNat * 256 + lo.toNat := by
  have h : lo.toNat < 2 ^ 8 := lo.isLt
  have e : (wordOf hi lo).toNat = hi.toNat <<< 8 ||| lo.toNat := BitVec.toNat_append hi lo
  rw [e, Nat.shiftLeft_eq, Nat.mul_comm, ← Nat.two_pow_add_eq_or_of_lt h, Nat.mul_comm]

/-- The high byte as a number. -/
theorem toNat_hiByte (w : Word) : (hiByte w).toNat = w.toNat / 256 := by
  have h := w.isLt
  simp only [hiByte, BitVec.extractLsb'_toNat, Nat.shiftRight_eq_div_pow]
  omega

/-- The low byte as a number. -/
theorem toNat_loByte (w : Word) : (loByte w).toNat = w.toNat % 256 := by
  simp [loByte, BitVec.extractLsb'_toNat]

@[simp] theorem hiByte_wordOf (hi lo : Byte) : hiByte (wordOf hi lo) = hi := by
  have h := lo.isLt
  apply BitVec.eq_of_toNat_eq
  rw [toNat_hiByte, toNat_wordOf]
  omega

@[simp] theorem loByte_wordOf (hi lo : Byte) : loByte (wordOf hi lo) = lo := by
  have h := lo.isLt
  apply BitVec.eq_of_toNat_eq
  rw [toNat_loByte, toNat_wordOf]
  omega

@[simp] theorem wordOf_hiByte_loByte (w : Word) : wordOf (hiByte w) (loByte w) = w := by
  apply BitVec.eq_of_toNat_eq
  rw [toNat_wordOf, toNat_hiByte, toNat_loByte]
  omega

/-- Every length is 1, 2 or 3 (R80). -/
theorem lengthOf_cases (pol : UndefPolicy) (op : Byte) :
    lengthOf pol op = 1 ∨ lengthOf pol op = 2 ∨ lengthOf pol op = 3 := by
  unfold lengthOf
  split <;> [skip; split] <;> simp

theorem decodeOp_length_fields (pol : UndefPolicy) (op b2 b3 : Byte) :
    (decodeOp pol op b2 b3).length = (decodeOp pol op 0 0).length := by
  unfold decodeOp decodeGroup0 decodeGroup1 decodeGroup3 directOf column3Of columnDOf column9Of undefByPolicy jccOf cccOf
    rccOf aluImmOf aluOf accOf
  repeat (first | rfl | split)

/-- The length of the instruction decoded is the length the opcode byte fixes (R90, R94). -/
theorem decodeOp_length (pol : UndefPolicy) (op b2 b3 : Byte) :
    (decodeOp pol op b2 b3).length = lengthOf pol op := by
  rw [decodeOp_length_fields]
  revert op
  cases pol <;> decide

/-- Bytes 2 and 3 reach a decoded instruction only as its immediate: a one-byte instruction does not depend on them. -/
theorem decodeOp_of_length_one {pol : UndefPolicy} {op : Byte} (h : lengthOf pol op = 1) (b2 b3 : Byte) :
    decodeOp pol op b2 b3 = decodeOp pol op 0 0 := by
  rw [← decodeOp_length pol op b2 b3] at h
  revert h
  unfold decodeOp decodeGroup0 decodeGroup1 decodeGroup3 directOf column3Of columnDOf column9Of undefByPolicy jccOf cccOf
    rccOf aluImmOf aluOf accOf
  repeat' first | exact fun _ => rfl | focus (intro h; simp [Instr.length] at h; done) | split

/-- A two-byte instruction does not depend on the byte after it. -/
theorem decodeOp_of_length_two {pol : UndefPolicy} {op : Byte} (h : lengthOf pol op = 2) (b2 b3 : Byte) :
    decodeOp pol op b2 b3 = decodeOp pol op b2 0 := by
  rw [← decodeOp_length pol op b2 b3] at h
  revert h
  unfold decodeOp decodeGroup0 decodeGroup1 decodeGroup3 directOf column3Of columnDOf column9Of undefByPolicy jccOf cccOf
    rccOf aluImmOf aluOf accOf
  repeat' first | exact fun _ => rfl | focus (intro h; simp [Instr.length] at h; done) | split

/-- What the decoder answers on a stream that is not empty: the instruction of its first bytes and the bytes after it, or
the failure of a stream that is too short (R95, R96). -/
theorem decode_cons (pol : UndefPolicy) (op : Byte) (rest : List Byte) :
    decode pol (op :: rest) =
      if rest.length + 1 < lengthOf pol op then .error .incompleteInstruction
      else .ok (decodeOp pol op (rest.getD 0 0) (rest.getD 1 0), (op :: rest).drop (lengthOf pol op)) :=
  rfl

/-- A decoded instruction's bytes come from the front of the stream (R95). -/
theorem decode_ok_drop {pol : UndefPolicy} {bytes rest : List Byte} {i : Instr}
    (h : decode pol bytes = .ok (i, rest)) : i.length ≤ bytes.length ∧ rest = bytes.drop i.length := by
  cases bytes with
  | nil => simp [decode] at h
  | cons op tail =>
    rw [decode_cons] at h
    split at h
    · simp at h
    · rename_i hlen
      simp only [Decoded.ok.injEq, Prod.mk.injEq] at h
      obtain ⟨rfl, rfl⟩ := h
      rw [decodeOp_length]
      exact ⟨by simpa using Nat.le_of_not_lt hlen, rfl⟩

end Sys2Proof
end

