-- ==== Sys2Proof/Laws/State.lean ====
section
/-! SUPPORT. One lemma per field of the state for each primitive update, so that no proof unfolds a record update. -/

namespace Sys2Proof.Machine

variable (s : State)

/-! `writeReg` -/

@[simp] theorem State.writeReg_regs (r : Reg) (v : Byte) : (s.writeReg r v).regs = s.regs.set r v := rfl
@[simp] theorem State.writeReg_flags (r : Reg) (v : Byte) : (s.writeReg r v).flags = s.flags := rfl
@[simp] theorem State.writeReg_sp (r : Reg) (v : Byte) : (s.writeReg r v).sp = s.sp := rfl
@[simp] theorem State.writeReg_pc (r : Reg) (v : Byte) : (s.writeReg r v).pc = s.pc := rfl
@[simp] theorem State.writeReg_inte (r : Reg) (v : Byte) : (s.writeReg r v).inte = s.inte := rfl
@[simp] theorem State.writeReg_run (r : Reg) (v : Byte) : (s.writeReg r v).run = s.run := rfl
@[simp] theorem State.writeReg_mem (r : Reg) (v : Byte) : (s.writeReg r v).mem = s.mem := rfl
@[simp] theorem State.writeReg_params (r : Reg) (v : Byte) : (s.writeReg r v).params = s.params := rfl
@[simp] theorem State.writeReg_portLog (r : Reg) (v : Byte) : (s.writeReg r v).portLog = s.portLog := rfl
@[simp] theorem State.writeReg_drawCount (r : Reg) (v : Byte) : (s.writeReg r v).drawCount = s.drawCount := rfl

/-! `setFlags` -/

@[simp] theorem State.setFlags_regs (f : Flags) : (s.setFlags f).regs = s.regs := rfl
@[simp] theorem State.setFlags_flags (f : Flags) : (s.setFlags f).flags = f := rfl
@[simp] theorem State.setFlags_sp (f : Flags) : (s.setFlags f).sp = s.sp := rfl
@[simp] theorem State.setFlags_pc (f : Flags) : (s.setFlags f).pc = s.pc := rfl
@[simp] theorem State.setFlags_inte (f : Flags) : (s.setFlags f).inte = s.inte := rfl
@[simp] theorem State.setFlags_run (f : Flags) : (s.setFlags f).run = s.run := rfl
@[simp] theorem State.setFlags_mem (f : Flags) : (s.setFlags f).mem = s.mem := rfl
@[simp] theorem State.setFlags_params (f : Flags) : (s.setFlags f).params = s.params := rfl
@[simp] theorem State.setFlags_portLog (f : Flags) : (s.setFlags f).portLog = s.portLog := rfl
@[simp] theorem State.setFlags_drawCount (f : Flags) : (s.setFlags f).drawCount = s.drawCount := rfl

/-! `setSp` -/

@[simp] theorem State.setSp_regs (v : Word) : (s.setSp v).regs = s.regs := rfl
@[simp] theorem State.setSp_flags (v : Word) : (s.setSp v).flags = s.flags := rfl
@[simp] theorem State.setSp_sp (v : Word) : (s.setSp v).sp = v := rfl
@[simp] theorem State.setSp_pc (v : Word) : (s.setSp v).pc = s.pc := rfl
@[simp] theorem State.setSp_inte (v : Word) : (s.setSp v).inte = s.inte := rfl
@[simp] theorem State.setSp_run (v : Word) : (s.setSp v).run = s.run := rfl
@[simp] theorem State.setSp_mem (v : Word) : (s.setSp v).mem = s.mem := rfl
@[simp] theorem State.setSp_params (v : Word) : (s.setSp v).params = s.params := rfl
@[simp] theorem State.setSp_portLog (v : Word) : (s.setSp v).portLog = s.portLog := rfl
@[simp] theorem State.setSp_drawCount (v : Word) : (s.setSp v).drawCount = s.drawCount := rfl

/-! `setPc` -/

@[simp] theorem State.setPc_regs (v : Word) : (s.setPc v).regs = s.regs := rfl
@[simp] theorem State.setPc_flags (v : Word) : (s.setPc v).flags = s.flags := rfl
@[simp] theorem State.setPc_sp (v : Word) : (s.setPc v).sp = s.sp := rfl
@[simp] theorem State.setPc_pc (v : Word) : (s.setPc v).pc = v := rfl
@[simp] theorem State.setPc_inte (v : Word) : (s.setPc v).inte = s.inte := rfl
@[simp] theorem State.setPc_run (v : Word) : (s.setPc v).run = s.run := rfl
@[simp] theorem State.setPc_mem (v : Word) : (s.setPc v).mem = s.mem := rfl
@[simp] theorem State.setPc_params (v : Word) : (s.setPc v).params = s.params := rfl
@[simp] theorem State.setPc_portLog (v : Word) : (s.setPc v).portLog = s.portLog := rfl
@[simp] theorem State.setPc_drawCount (v : Word) : (s.setPc v).drawCount = s.drawCount := rfl

/-! `setInte` -/

@[simp] theorem State.setInte_regs (v : Bool) : (s.setInte v).regs = s.regs := rfl
@[simp] theorem State.setInte_flags (v : Bool) : (s.setInte v).flags = s.flags := rfl
@[simp] theorem State.setInte_sp (v : Bool) : (s.setInte v).sp = s.sp := rfl
@[simp] theorem State.setInte_pc (v : Bool) : (s.setInte v).pc = s.pc := rfl
@[simp] theorem State.setInte_inte (v : Bool) : (s.setInte v).inte = v := rfl
@[simp] theorem State.setInte_run (v : Bool) : (s.setInte v).run = s.run := rfl
@[simp] theorem State.setInte_mem (v : Bool) : (s.setInte v).mem = s.mem := rfl
@[simp] theorem State.setInte_params (v : Bool) : (s.setInte v).params = s.params := rfl
@[simp] theorem State.setInte_portLog (v : Bool) : (s.setInte v).portLog = s.portLog := rfl
@[simp] theorem State.setInte_drawCount (v : Bool) : (s.setInte v).drawCount = s.drawCount := rfl

/-! `setRun` -/

@[simp] theorem State.setRun_regs (v : RunState) : (s.setRun v).regs = s.regs := rfl
@[simp] theorem State.setRun_flags (v : RunState) : (s.setRun v).flags = s.flags := rfl
@[simp] theorem State.setRun_sp (v : RunState) : (s.setRun v).sp = s.sp := rfl
@[simp] theorem State.setRun_pc (v : RunState) : (s.setRun v).pc = s.pc := rfl
@[simp] theorem State.setRun_inte (v : RunState) : (s.setRun v).inte = s.inte := rfl
@[simp] theorem State.setRun_run (v : RunState) : (s.setRun v).run = v := rfl
@[simp] theorem State.setRun_mem (v : RunState) : (s.setRun v).mem = s.mem := rfl
@[simp] theorem State.setRun_params (v : RunState) : (s.setRun v).params = s.params := rfl
@[simp] theorem State.setRun_portLog (v : RunState) : (s.setRun v).portLog = s.portLog := rfl
@[simp] theorem State.setRun_drawCount (v : RunState) : (s.setRun v).drawCount = s.drawCount := rfl

/-! `memWrite` -/

@[simp] theorem State.memWrite_regs (a : Word) (v : Byte) : (s.memWrite a v).regs = s.regs := rfl
@[simp] theorem State.memWrite_flags (a : Word) (v : Byte) : (s.memWrite a v).flags = s.flags := rfl
@[simp] theorem State.memWrite_sp (a : Word) (v : Byte) : (s.memWrite a v).sp = s.sp := rfl
@[simp] theorem State.memWrite_pc (a : Word) (v : Byte) : (s.memWrite a v).pc = s.pc := rfl
@[simp] theorem State.memWrite_inte (a : Word) (v : Byte) : (s.memWrite a v).inte = s.inte := rfl
@[simp] theorem State.memWrite_run (a : Word) (v : Byte) : (s.memWrite a v).run = s.run := rfl
@[simp] theorem State.memWrite_mem (a : Word) (v : Byte) : (s.memWrite a v).mem = Memory.write s.mem (s.phys a) v := rfl
@[simp] theorem State.memWrite_params (a : Word) (v : Byte) : (s.memWrite a v).params = s.params := rfl
@[simp] theorem State.memWrite_portLog (a : Word) (v : Byte) : (s.memWrite a v).portLog = s.portLog := rfl
@[simp] theorem State.memWrite_drawCount (a : Word) (v : Byte) : (s.memWrite a v).drawCount = s.drawCount := rfl

/-! `setBc` -/

@[simp] theorem State.setBc_regs (v : Word) : (s.setBc v).regs = { s.regs with b := hiByte v, c := loByte v } := rfl
@[simp] theorem State.setBc_flags (v : Word) : (s.setBc v).flags = s.flags := rfl
@[simp] theorem State.setBc_sp (v : Word) : (s.setBc v).sp = s.sp := rfl
@[simp] theorem State.setBc_pc (v : Word) : (s.setBc v).pc = s.pc := rfl
@[simp] theorem State.setBc_inte (v : Word) : (s.setBc v).inte = s.inte := rfl
@[simp] theorem State.setBc_run (v : Word) : (s.setBc v).run = s.run := rfl
@[simp] theorem State.setBc_mem (v : Word) : (s.setBc v).mem = s.mem := rfl
@[simp] theorem State.setBc_params (v : Word) : (s.setBc v).params = s.params := rfl
@[simp] theorem State.setBc_portLog (v : Word) : (s.setBc v).portLog = s.portLog := rfl
@[simp] theorem State.setBc_drawCount (v : Word) : (s.setBc v).drawCount = s.drawCount := rfl

/-! `setDe` -/

@[simp] theorem State.setDe_regs (v : Word) : (s.setDe v).regs = { s.regs with d := hiByte v, e := loByte v } := rfl
@[simp] theorem State.setDe_flags (v : Word) : (s.setDe v).flags = s.flags := rfl
@[simp] theorem State.setDe_sp (v : Word) : (s.setDe v).sp = s.sp := rfl
@[simp] theorem State.setDe_pc (v : Word) : (s.setDe v).pc = s.pc := rfl
@[simp] theorem State.setDe_inte (v : Word) : (s.setDe v).inte = s.inte := rfl
@[simp] theorem State.setDe_run (v : Word) : (s.setDe v).run = s.run := rfl
@[simp] theorem State.setDe_mem (v : Word) : (s.setDe v).mem = s.mem := rfl
@[simp] theorem State.setDe_params (v : Word) : (s.setDe v).params = s.params := rfl
@[simp] theorem State.setDe_portLog (v : Word) : (s.setDe v).portLog = s.portLog := rfl
@[simp] theorem State.setDe_drawCount (v : Word) : (s.setDe v).drawCount = s.drawCount := rfl

/-! `setHl` -/

@[simp] theorem State.setHl_regs (v : Word) : (s.setHl v).regs = { s.regs with h := hiByte v, l := loByte v } := rfl
@[simp] theorem State.setHl_flags (v : Word) : (s.setHl v).flags = s.flags := rfl
@[simp] theorem State.setHl_sp (v : Word) : (s.setHl v).sp = s.sp := rfl
@[simp] theorem State.setHl_pc (v : Word) : (s.setHl v).pc = s.pc := rfl
@[simp] theorem State.setHl_inte (v : Word) : (s.setHl v).inte = s.inte := rfl
@[simp] theorem State.setHl_run (v : Word) : (s.setHl v).run = s.run := rfl
@[simp] theorem State.setHl_mem (v : Word) : (s.setHl v).mem = s.mem := rfl
@[simp] theorem State.setHl_params (v : Word) : (s.setHl v).params = s.params := rfl
@[simp] theorem State.setHl_portLog (v : Word) : (s.setHl v).portLog = s.portLog := rfl
@[simp] theorem State.setHl_drawCount (v : Word) : (s.setHl v).drawCount = s.drawCount := rfl

/-! `raise` -/

@[simp] theorem State.raise_regs (v : FaultReason) : (s.raise v).regs = s.regs := rfl
@[simp] theorem State.raise_flags (v : FaultReason) : (s.raise v).flags = s.flags := rfl
@[simp] theorem State.raise_sp (v : FaultReason) : (s.raise v).sp = s.sp := rfl
@[simp] theorem State.raise_pc (v : FaultReason) : (s.raise v).pc = s.pc := rfl
@[simp] theorem State.raise_inte (v : FaultReason) : (s.raise v).inte = s.inte := rfl
@[simp] theorem State.raise_run (v : FaultReason) : (s.raise v).run = .faulted v := rfl
@[simp] theorem State.raise_mem (v : FaultReason) : (s.raise v).mem = s.mem := rfl
@[simp] theorem State.raise_params (v : FaultReason) : (s.raise v).params = s.params := rfl
@[simp] theorem State.raise_portLog (v : FaultReason) : (s.raise v).portLog = s.portLog := rfl
@[simp] theorem State.raise_drawCount (v : FaultReason) : (s.raise v).drawCount = s.drawCount := rfl

/-! `advancePc` -/

@[simp] theorem State.advancePc_regs (n : Nat) : (s.advancePc n).regs = s.regs := rfl
@[simp] theorem State.advancePc_flags (n : Nat) : (s.advancePc n).flags = s.flags := rfl
@[simp] theorem State.advancePc_sp (n : Nat) : (s.advancePc n).sp = s.sp := rfl
@[simp] theorem State.advancePc_pc (n : Nat) : (s.advancePc n).pc = s.pc + BitVec.ofNat 16 n := rfl
@[simp] theorem State.advancePc_inte (n : Nat) : (s.advancePc n).inte = s.inte := rfl
@[simp] theorem State.advancePc_run (n : Nat) : (s.advancePc n).run = s.run := rfl
@[simp] theorem State.advancePc_mem (n : Nat) : (s.advancePc n).mem = s.mem := rfl
@[simp] theorem State.advancePc_params (n : Nat) : (s.advancePc n).params = s.params := rfl
@[simp] theorem State.advancePc_portLog (n : Nat) : (s.advancePc n).portLog = s.portLog := rfl
@[simp] theorem State.advancePc_drawCount (n : Nat) : (s.advancePc n).drawCount = s.drawCount := rfl

/-! `push16`, `dropTop16`, `setAcc`, `drawFlags`: updates made of the primitive ones -/

@[simp] theorem State.push16_regs (v : Word) : (s.push16 v).regs = s.regs := rfl
@[simp] theorem State.push16_flags (v : Word) : (s.push16 v).flags = s.flags := rfl
@[simp] theorem State.push16_sp (v : Word) : (s.push16 v).sp = s.sp - 1 - 1 := rfl
@[simp] theorem State.push16_pc (v : Word) : (s.push16 v).pc = s.pc := rfl
@[simp] theorem State.push16_inte (v : Word) : (s.push16 v).inte = s.inte := rfl
@[simp] theorem State.push16_run (v : Word) : (s.push16 v).run = s.run := rfl
@[simp] theorem State.push16_mem (v : Word) : (s.push16 v).mem = Memory.write (Memory.write s.mem (s.phys (s.sp - 1)) (hiByte v)) (s.phys (s.sp - 1 - 1)) (loByte v) := rfl
@[simp] theorem State.push16_params (v : Word) : (s.push16 v).params = s.params := rfl
@[simp] theorem State.push16_portLog (v : Word) : (s.push16 v).portLog = s.portLog := rfl
@[simp] theorem State.push16_drawCount (v : Word) : (s.push16 v).drawCount = s.drawCount := rfl
@[simp] theorem State.dropTop16_regs : s.dropTop16.regs = s.regs := rfl
@[simp] theorem State.dropTop16_flags : s.dropTop16.flags = s.flags := rfl
@[simp] theorem State.dropTop16_sp : s.dropTop16.sp = s.sp + 2 := rfl
@[simp] theorem State.dropTop16_pc : s.dropTop16.pc = s.pc := rfl
@[simp] theorem State.dropTop16_inte : s.dropTop16.inte = s.inte := rfl
@[simp] theorem State.dropTop16_run : s.dropTop16.run = s.run := rfl
@[simp] theorem State.dropTop16_mem : s.dropTop16.mem = s.mem := rfl
@[simp] theorem State.dropTop16_params : s.dropTop16.params = s.params := rfl
@[simp] theorem State.dropTop16_portLog : s.dropTop16.portLog = s.portLog := rfl
@[simp] theorem State.dropTop16_drawCount : s.dropTop16.drawCount = s.drawCount := rfl
@[simp] theorem State.setAcc_regs (r : Byte × Flags) : (s.setAcc r).regs = { s.regs with a := r.1 } := rfl
@[simp] theorem State.setAcc_flags (r : Byte × Flags) : (s.setAcc r).flags = r.2 := rfl
@[simp] theorem State.setAcc_sp (r : Byte × Flags) : (s.setAcc r).sp = s.sp := rfl
@[simp] theorem State.setAcc_pc (r : Byte × Flags) : (s.setAcc r).pc = s.pc := rfl
@[simp] theorem State.setAcc_inte (r : Byte × Flags) : (s.setAcc r).inte = s.inte := rfl
@[simp] theorem State.setAcc_run (r : Byte × Flags) : (s.setAcc r).run = s.run := rfl
@[simp] theorem State.setAcc_mem (r : Byte × Flags) : (s.setAcc r).mem = s.mem := rfl
@[simp] theorem State.setAcc_params (r : Byte × Flags) : (s.setAcc r).params = s.params := rfl
@[simp] theorem State.setAcc_portLog (r : Byte × Flags) : (s.setAcc r).portLog = s.portLog := rfl
@[simp] theorem State.setAcc_drawCount (r : Byte × Flags) : (s.setAcc r).drawCount = s.drawCount := rfl
@[simp] theorem State.drawFlags_regs (cy : Bool) : (s.drawFlags cy).regs = s.regs := rfl
@[simp] theorem State.drawFlags_sp (cy : Bool) : (s.drawFlags cy).sp = s.sp := rfl
@[simp] theorem State.drawFlags_pc (cy : Bool) : (s.drawFlags cy).pc = s.pc := rfl
@[simp] theorem State.drawFlags_inte (cy : Bool) : (s.drawFlags cy).inte = s.inte := rfl
@[simp] theorem State.drawFlags_run (cy : Bool) : (s.drawFlags cy).run = s.run := rfl
@[simp] theorem State.drawFlags_mem (cy : Bool) : (s.drawFlags cy).mem = s.mem := rfl
@[simp] theorem State.drawFlags_params (cy : Bool) : (s.drawFlags cy).params = s.params := rfl
@[simp] theorem State.drawFlags_portLog (cy : Bool) : (s.drawFlags cy).portLog = s.portLog := rfl
@[simp] theorem State.drawFlags_drawCount (cy : Bool) : (s.drawFlags cy).drawCount = s.drawCount + 4 := rfl
@[simp] theorem State.drawFlags_cy (cy : Bool) : (s.drawFlags cy).flags.cy = cy := rfl

/-! Reading a register after an update -/

/-- A register read after a register write: the value written, or the register's own. -/
theorem State.readReg_writeReg (r r' : Reg) (v : Byte) :
    (s.writeReg r v).readReg r' = if r' = r then v else s.readReg r' := by
  cases r <;> cases r' <;> rfl

/-- Registers are read from the register file alone. -/
theorem State.readReg_congr {s t : State} (h : t.regs = s.regs) (r : Reg) : t.readReg r = s.readReg r := by
  cases r <;> simp [State.readReg, h]

/-- The index of an address depends on the capacity alone. -/
theorem State.phys_congr {s t : State} (h : t.params = s.params) (a : Word) : t.phys a = s.phys a := by
  simp [State.phys, h]

/-- A byte is read from memory and the capacity alone. -/
theorem State.memRead_congr {s t : State} (hm : t.mem = s.mem) (hp : t.params = s.params) (a : Word) :
    t.memRead a = s.memRead a := by
  simp [State.memRead, hm, State.phys_congr hp]

/-! Indexes and memory reads after an update that leaves memory alone -/

@[simp] theorem State.writeReg_phys (r : Reg) (v : Byte) (x : Word) : (s.writeReg r v).phys x = s.phys x := rfl
@[simp] theorem State.writeReg_memRead (r : Reg) (v : Byte) (x : Word) : (s.writeReg r v).memRead x = s.memRead x := rfl
@[simp] theorem State.setFlags_phys (f : Flags) (x : Word) : (s.setFlags f).phys x = s.phys x := rfl
@[simp] theorem State.setFlags_memRead (f : Flags) (x : Word) : (s.setFlags f).memRead x = s.memRead x := rfl
@[simp] theorem State.setSp_phys (v : Word) (x : Word) : (s.setSp v).phys x = s.phys x := rfl
@[simp] theorem State.setSp_memRead (v : Word) (x : Word) : (s.setSp v).memRead x = s.memRead x := rfl
@[simp] theorem State.setPc_phys (v : Word) (x : Word) : (s.setPc v).phys x = s.phys x := rfl
@[simp] theorem State.setPc_memRead (v : Word) (x : Word) : (s.setPc v).memRead x = s.memRead x := rfl
@[simp] theorem State.setInte_phys (v : Bool) (x : Word) : (s.setInte v).phys x = s.phys x := rfl
@[simp] theorem State.setInte_memRead (v : Bool) (x : Word) : (s.setInte v).memRead x = s.memRead x := rfl
@[simp] theorem State.setRun_phys (v : RunState) (x : Word) : (s.setRun v).phys x = s.phys x := rfl
@[simp] theorem State.setRun_memRead (v : RunState) (x : Word) : (s.setRun v).memRead x = s.memRead x := rfl
@[simp] theorem State.memWrite_phys (a : Word) (v : Byte) (x : Word) : (s.memWrite a v).phys x = s.phys x := rfl
@[simp] theorem State.setBc_phys (v : Word) (x : Word) : (s.setBc v).phys x = s.phys x := rfl
@[simp] theorem State.setBc_memRead (v : Word) (x : Word) : (s.setBc v).memRead x = s.memRead x := rfl
@[simp] theorem State.setDe_phys (v : Word) (x : Word) : (s.setDe v).phys x = s.phys x := rfl
@[simp] theorem State.setDe_memRead (v : Word) (x : Word) : (s.setDe v).memRead x = s.memRead x := rfl
@[simp] theorem State.setHl_phys (v : Word) (x : Word) : (s.setHl v).phys x = s.phys x := rfl
@[simp] theorem State.setHl_memRead (v : Word) (x : Word) : (s.setHl v).memRead x = s.memRead x := rfl
@[simp] theorem State.raise_phys (v : FaultReason) (x : Word) : (s.raise v).phys x = s.phys x := rfl
@[simp] theorem State.raise_memRead (v : FaultReason) (x : Word) : (s.raise v).memRead x = s.memRead x := rfl
@[simp] theorem State.advancePc_phys (n : Nat) (x : Word) : (s.advancePc n).phys x = s.phys x := rfl
@[simp] theorem State.advancePc_memRead (n : Nat) (x : Word) : (s.advancePc n).memRead x = s.memRead x := rfl
@[simp] theorem State.dropTop16_phys (x : Word) : s.dropTop16.phys x = s.phys x := rfl
@[simp] theorem State.dropTop16_memRead (x : Word) : s.dropTop16.memRead x = s.memRead x := rfl
@[simp] theorem State.setAcc_phys (r : Byte × Flags) (x : Word) : (s.setAcc r).phys x = s.phys x := rfl
@[simp] theorem State.setAcc_memRead (r : Byte × Flags) (x : Word) : (s.setAcc r).memRead x = s.memRead x := rfl
@[simp] theorem State.drawFlags_phys (cy : Bool) (x : Word) : (s.drawFlags cy).phys x = s.phys x := rfl
@[simp] theorem State.drawFlags_memRead (cy : Bool) (x : Word) : (s.drawFlags cy).memRead x = s.memRead x := rfl
@[simp] theorem State.push16_phys (v x : Word) : (s.push16 v).phys x = s.phys x := rfl

end Sys2Proof.Machine
end

