-- ==== Sys2Proof/Laws/Memory.lean ====
section
/-! SUPPORT. The laws of memory as a canonical list: a read after a write, the form that every write keeps, and that equal
contents are equal lists; then the same over the state's accesses (20_memory.md R51 to R56). -/

namespace Sys2Proof.Machine

/-! ### The list -/

theorem Memory.read_entry_append (k k' : Nat) (v : Byte) (m : Memory) :
    Memory.read (Memory.entry k v ++ m) k' =
      if k' = k then (if v = Config.unlistedByte then Memory.read m k else v) else Memory.read m k' := by
  unfold Memory.entry
  split <;> rename_i h
  · simp only [List.nil_append]; split <;> simp_all
  · simp only [List.cons_append, List.nil_append, Memory.read]
    by_cases hk : k = k' <;> simp_all [eq_comm]

/-- An index below all the listed ones reads as the unlisted byte. -/
theorem Memory.read_of_lt {lo : Nat} {m : Memory} (h : Memory.wfFrom lo m = true) {k : Nat} (hk : k < lo) :
    Memory.read m k = Config.unlistedByte := by
  induction m generalizing lo with
  | nil => rfl
  | cons c rest ih =>
    obtain ⟨k', v⟩ := c
    simp only [Memory.wfFrom, Bool.and_eq_true, decide_eq_true_eq] at h
    have : k' ≠ k := by omega
    simp only [Memory.read, this, if_false]
    exact ih h.2 (by omega)

/-- Read after write, on a memory in canonical form from `lo`. -/
theorem Memory.read_write_from {lo : Nat} {m : Memory} (h : Memory.wfFrom lo m = true) (k k' : Nat) (v : Byte) :
    Memory.read (Memory.write m k v) k' = if k' = k then v else Memory.read m k' := by
  induction m generalizing lo with
  | nil =>
    have := Memory.read_entry_append k k' v []
    simp only [List.append_nil] at this
    simp only [Memory.write, this, Memory.read]
    split <;> [split; rfl] <;> simp_all
  | cons c rest ih =>
    obtain ⟨j, w⟩ := c
    simp only [Memory.wfFrom, Bool.and_eq_true, decide_eq_true_eq] at h
    obtain ⟨⟨_, _⟩, hrest⟩ := h
    unfold Memory.write
    split
    · rename_i hlt
      have hk : Memory.read ((j, w) :: rest) k = Config.unlistedByte := by
        have hne : j ≠ k := by omega
        simp only [Memory.read, hne, if_false]
        exact Memory.read_of_lt hrest (by omega)
      rw [Memory.read_entry_append, hk]
      split <;> [split; rfl] <;> simp_all
    · split
      · rename_i heq
        subst heq
        rw [Memory.read_entry_append, Memory.read_of_lt hrest (Nat.lt_succ_self k)]
        by_cases hk : k' = k
        · subst hk
          simp only [if_true]
          split <;> simp_all
        · simp [hk, Memory.read, Ne.symm hk]
      · rename_i hne
        simp only [Memory.read, ih hrest]
        by_cases hj : j = k'
        · subst hj; simp [Ne.symm hne]
        · simp [hj]

/-- Read after write: the byte written at its index, the old byte elsewhere. -/
theorem Memory.read_write {m : Memory} (h : Memory.wf m = true) (k k' : Nat) (v : Byte) :
    Memory.read (Memory.write m k v) k' = if k' = k then v else Memory.read m k' :=
  Memory.read_write_from h k k' v

theorem Memory.wfFrom_mono {lo lo' : Nat} {m : Memory} (h : Memory.wfFrom lo m = true) (hl : lo' ≤ lo) :
    Memory.wfFrom lo' m = true := by
  cases m with
  | nil => rfl
  | cons c rest =>
    obtain ⟨k, v⟩ := c
    simp only [Memory.wfFrom, Bool.and_eq_true, decide_eq_true_eq] at h ⊢
    exact ⟨⟨by omega, h.1.2⟩, h.2⟩

theorem Memory.wfFrom_entry_append {lo k : Nat} {v : Byte} {m : Memory} (hk : lo ≤ k)
    (h : Memory.wfFrom (k + 1) m = true) : Memory.wfFrom lo (Memory.entry k v ++ m) = true := by
  unfold Memory.entry
  split
  · exact Memory.wfFrom_mono h (by omega)
  · rename_i hv
    simp [Memory.wfFrom, hk, h, hv]

theorem Memory.wfFrom_write {lo : Nat} {m : Memory} (h : Memory.wfFrom lo m = true) {k : Nat} (hk : lo ≤ k) (v : Byte) :
    Memory.wfFrom lo (Memory.write m k v) = true := by
  induction m generalizing lo with
  | nil => simpa [Memory.write] using Memory.wfFrom_entry_append (m := []) (v := v) hk rfl
  | cons c rest ih =>
    obtain ⟨j, w⟩ := c
    have h' := h
    simp only [Memory.wfFrom, Bool.and_eq_true, decide_eq_true_eq] at h
    obtain ⟨⟨hlo, hw⟩, hrest⟩ := h
    unfold Memory.write
    split
    · refine Memory.wfFrom_entry_append hk ?_
      simp only [Memory.wfFrom, Bool.and_eq_true, decide_eq_true_eq]
      exact ⟨⟨by omega, hw⟩, hrest⟩
    · split
      · rename_i heq; subst heq; exact Memory.wfFrom_entry_append hk hrest
      · simp only [Memory.wfFrom, Bool.and_eq_true, decide_eq_true_eq]
        exact ⟨⟨hlo, hw⟩, ih hrest (by omega)⟩

/-- A write keeps the canonical form. -/
theorem Memory.wf_write {m : Memory} (h : Memory.wf m = true) (k : Nat) (v : Byte) :
    Memory.wf (Memory.write m k v) = true :=
  Memory.wfFrom_write h (Nat.zero_le k) v

theorem Memory.below_append (n : Nat) (m m' : Memory) :
    Memory.below n (m ++ m') = (Memory.below n m && Memory.below n m') := by
  simp [Memory.below]

theorem Memory.below_entry {n k : Nat} (h : k < n) (v : Byte) : Memory.below n (Memory.entry k v) = true := by
  unfold Memory.entry
  split <;> simp [Memory.below, h]

/-- A write below the capacity keeps every index below it. -/
theorem Memory.below_write {n : Nat} {m : Memory} (h : Memory.below n m = true) {k : Nat} (hk : k < n) (v : Byte) :
    Memory.below n (Memory.write m k v) = true := by
  induction m with
  | nil => simpa [Memory.write] using Memory.below_entry hk v
  | cons c rest ih =>
    obtain ⟨j, w⟩ := c
    have hc : Memory.below n ((j, w) :: rest) = (decide (j < n) && Memory.below n rest) := rfl
    rw [hc, Bool.and_eq_true] at h
    unfold Memory.write
    split
    · rw [Memory.below_append, Memory.below_entry hk, Bool.true_and, hc, Bool.and_eq_true]; exact h
    · split
      · rw [Memory.below_append, Memory.below_entry hk, Bool.true_and]; exact h.2
      · have hw : Memory.below n ((j, w) :: Memory.write rest k v) =
            (decide (j < n) && Memory.below n (Memory.write rest k v)) := rfl
        rw [hw, Bool.and_eq_true]
        exact ⟨h.1, ih h.2⟩

theorem Memory.ext_from {lo lo' : Nat} {m m' : Memory} (h : Memory.wfFrom lo m = true) (h' : Memory.wfFrom lo' m' = true)
    (hr : ∀ k, Memory.read m k = Memory.read m' k) : m = m' := by
  induction m generalizing lo lo' m' with
  | nil =>
    cases m' with
    | nil => rfl
    | cons c rest =>
      obtain ⟨j, w⟩ := c
      simp only [Memory.wfFrom, Bool.and_eq_true, decide_eq_true_eq] at h'
      exact absurd (by simpa [Memory.read] using (hr j).symm) h'.1.2
  | cons c rest ih =>
    obtain ⟨i, v⟩ := c
    simp only [Memory.wfFrom, Bool.and_eq_true, decide_eq_true_eq] at h
    cases m' with
    | nil => exact absurd (by simpa [Memory.read] using hr i) h.1.2
    | cons c' rest' =>
      obtain ⟨j, w⟩ := c'
      simp only [Memory.wfFrom, Bool.and_eq_true, decide_eq_true_eq] at h'
      have hij : i = j := by
        rcases Nat.lt_trichotomy i j with hlt | heq | hgt
        · have hne : j ≠ i := by omega
          have := hr i
          simp only [Memory.read, if_true, hne, if_false] at this
          exact absurd (this.trans (Memory.read_of_lt h'.2 (by omega))) h.1.2
        · exact heq
        · have hne : i ≠ j := by omega
          have := hr j
          simp only [Memory.read, if_true, hne, if_false] at this
          exact absurd (this.symm.trans (Memory.read_of_lt h.2 (by omega))) h'.1.2
      subst hij
      have hvw : v = w := by simpa [Memory.read] using hr i
      subst hvw
      have : rest = rest' := by
        refine ih h.2 h'.2 fun k => ?_
        by_cases hk : i = k
        · subst hk
          rw [Memory.read_of_lt h.2 (Nat.lt_succ_self i), Memory.read_of_lt h'.2 (Nat.lt_succ_self i)]
        · simpa [Memory.read, hk] using hr k
      rw [this]

/-- Canonical memories with equal contents are equal lists. -/
theorem Memory.ext {m m' : Memory} (h : Memory.wf m = true) (h' : Memory.wf m' = true)
    (hr : ∀ k, Memory.read m k = Memory.read m' k) : m = m' :=
  Memory.ext_from h h' hr

/-! ### The state's accesses -/

variable {s : State}

/-- R51: an index lies below the capacity. -/
theorem State.phys_lt (h : 0 < s.params.memSize) (a : Word) : s.phys a < s.params.memSize := Nat.mod_lt _ h

/-- With the whole 16-bit space as memory, distinct addresses have distinct indexes. -/
theorem State.phys_inj (h : s.params.memSize = 65536) (a b : Word) : s.phys a = s.phys b ↔ a = b := by
  have ha := a.isLt
  have hb := b.isLt
  simp only [State.phys, h]
  rw [Nat.mod_eq_of_lt ha, Nat.mod_eq_of_lt hb]
  exact BitVec.toNat_inj

/-- R52, R53: a byte read after a byte written. -/
theorem State.memRead_memWrite (h : Memory.wf s.mem = true) (a b : Word) (v : Byte) :
    (s.memWrite a v).memRead b = if s.phys b = s.phys a then v else s.memRead b :=
  Memory.read_write h _ _ _

/-- A byte write keeps the invariant. -/
theorem State.inv_memWrite (h : Inv s) (a : Word) (v : Byte) : Inv (s.memWrite a v) := by
  obtain ⟨hp, hm, hb⟩ := h
  have hpos : 0 < s.params.memSize := by
    simp only [Params.wf, Bool.and_eq_true, decide_eq_true_eq] at hp; omega
  exact ⟨hp, Memory.wf_write hm _ _, Memory.below_write hb (State.phys_lt hpos a) v⟩

/-- An update that leaves memory and the parameters alone keeps the invariant. -/
theorem State.inv_congr {s t : State} (h : Inv s) (hm : t.mem = s.mem) (hp : t.params = s.params) : Inv t := by
  unfold Inv at *
  rw [hm, hp]
  exact h

/-- R55: a 16-bit write keeps the invariant. -/
theorem State.inv_memWrite16 (h : Inv s) (a v : Word) : Inv (s.memWrite16 a v) :=
  State.inv_memWrite (State.inv_memWrite h _ _) _ _

/-- R56: one byte pushed keeps the invariant. -/
theorem State.inv_push8 (h : Inv s) (v : Byte) : Inv (s.push8 v) :=
  State.inv_memWrite (State.inv_congr (t := s.setSp (s.sp - 1)) h rfl rfl) _ _

/-- R56: a push keeps the invariant. -/
theorem State.inv_push16 (h : Inv s) (v : Word) : Inv (s.push16 v) := State.inv_push8 (State.inv_push8 h _) _

/-- R62: loading bytes keeps the invariant. -/
theorem State.inv_loadBytes (h : Inv s) (a : Word) (bytes : List Byte) : Inv (s.loadBytes a bytes) := by
  induction bytes generalizing s a with
  | nil => exact h
  | cons v rest ih => exact ih (State.inv_memWrite h a v) (a + 1)

/-- R55: a byte read after a 16-bit write: the high byte is written last. -/
theorem State.memRead_memWrite16 (h : Memory.wf s.mem = true) (a b v : Word) :
    (s.memWrite16 a v).memRead b =
      if s.phys b = s.phys (a + 1) then hiByte v else if s.phys b = s.phys a then loByte v else s.memRead b := by
  unfold State.memWrite16
  rw [State.memRead_memWrite (by exact Memory.wf_write h _ _), State.memRead_memWrite h]
  rfl

/-- R56: a byte read after a push: the low byte is written last. -/
theorem State.memRead_push16 (h : Memory.wf s.mem = true) (v b : Word) :
    (s.push16 v).memRead b =
      if s.phys b = s.phys (s.sp - 2) then loByte v
      else if s.phys b = s.phys (s.sp - 1) then hiByte v else s.memRead b := by
  have hsp : s.sp - 1 - 1 = s.sp - 2 := by rw [BitVec.sub_sub]; rfl
  have h1 : Memory.wf (s.push8 (hiByte v)).mem = true := Memory.wf_write h _ _
  have e : s.push16 v =
      (((s.setSp (s.sp - 1)).memWrite (s.sp - 1) (hiByte v)).setSp (s.sp - 2)).memWrite (s.sp - 2) (loByte v) := by
    rw [← hsp]; rfl
  rw [e, State.memRead_memWrite (by exact h1), State.setSp_memRead, State.memRead_memWrite (by exact h)]
  rfl

end Sys2Proof.Machine
end

