-- ==== Sys2Proof/Laws/Ops.lean ====
section
/-! SUPPORT. One lemma per shared operation that says everything it can do, for proofs to cite instead of unfolding it. -/

namespace Sys2Proof.Machine

variable (s : State)

/-! ### Pairs and operands -/

/-- R23: a pair read back after it was written. -/
@[simp] theorem State.bc_setBc (v : Word) : (s.setBc v).bc = v := wordOf_hiByte_loByte v

/-- R23: a pair read back after it was written. -/
@[simp] theorem State.de_setDe (v : Word) : (s.setDe v).de = v := wordOf_hiByte_loByte v

/-- R23: a pair read back after it was written. -/
@[simp] theorem State.hl_setHl (v : Word) : (s.setHl v).hl = v := wordOf_hiByte_loByte v

/-- R85: a `pp` operand read back after it was written. -/
@[simp] theorem State.readPair_writePair (p : Pair) (v : Word) : (s.writePair p v).readPair p = v := by
  cases p
  · exact s.bc_setBc v
  · exact s.de_setDe v
  · exact s.hl_setHl v
  · rfl

/-- R85: writing a `pp` operand changes registers or SP, nothing else. -/
theorem State.writePair_frame (p : Pair) (v : Word) :
    (s.writePair p v).flags = s.flags ∧ (s.writePair p v).pc = s.pc ∧ (s.writePair p v).inte = s.inte ∧
    (s.writePair p v).run = s.run ∧ (s.writePair p v).mem = s.mem ∧ (s.writePair p v).params = s.params ∧
    (s.writePair p v).portLog = s.portLog ∧ (s.writePair p v).drawCount = s.drawCount := by
  cases p <;> exact ⟨rfl, rfl, rfl, rfl, rfl, rfl, rfl, rfl⟩

/-- R84: writing an 8-bit operand changes a register or the byte at HL, nothing else. -/
theorem State.writeRM_frame (x : RegM) (v : Byte) :
    (s.writeRM x v).flags = s.flags ∧ (s.writeRM x v).sp = s.sp ∧ (s.writeRM x v).pc = s.pc ∧
    (s.writeRM x v).inte = s.inte ∧ (s.writeRM x v).run = s.run ∧ (s.writeRM x v).params = s.params ∧
    (s.writeRM x v).portLog = s.portLog ∧ (s.writeRM x v).drawCount = s.drawCount := by
  cases x <;> exact ⟨rfl, rfl, rfl, rfl, rfl, rfl, rfl, rfl⟩

/-- R84: writing an 8-bit operand keeps the invariant. -/
theorem State.inv_writeRM {s : State} (h : Inv s) (x : RegM) (v : Byte) : Inv (s.writeRM x v) := by
  cases x with
  | reg r => exact State.inv_congr h rfl rfl
  | m => exact State.inv_memWrite h _ _

/-- R24: writing a popped value changes registers and flags, nothing else. -/
theorem State.writeStackPair_frame (p : StackPair) (v : Word) :
    (s.writeStackPair p v).sp = s.sp ∧ (s.writeStackPair p v).pc = s.pc ∧ (s.writeStackPair p v).inte = s.inte ∧
    (s.writeStackPair p v).run = s.run ∧ (s.writeStackPair p v).mem = s.mem ∧
    (s.writeStackPair p v).params = s.params ∧ (s.writeStackPair p v).portLog = s.portLog ∧
    (s.writeStackPair p v).drawCount = s.drawCount := by
  cases p <;> exact ⟨rfl, rfl, rfl, rfl, rfl, rfl, rfl, rfl⟩

/-- R27: the flag byte gives its flags back. -/
@[simp] theorem Flags.unpack_pack (f : Flags) : Flags.unpack f.pack = f := by
  obtain ⟨a, b, c, d, e⟩ := f
  cases a <;> cases b <;> cases c <;> cases d <;> cases e <;> rfl

/-! ### Flags of the 16-bit operations -/

/-- R149: the 16-bit add sets CY, and draws the other four flags under `doc_literal`. -/
theorem State.flagsAdd16_cases (cy : Bool) :
    (s.params.flagProfile = .canonical ∧ s.flagsAdd16 cy = s.setFlags { s.flags with cy := cy }) ∨
    (s.params.flagProfile = .docLiteral ∧ s.flagsAdd16 cy = s.drawFlags cy) := by
  unfold State.flagsAdd16
  split <;> rename_i h
  · exact .inl ⟨h, rfl⟩
  · exact .inr ⟨h, rfl⟩

/-- R150: the 16-bit increment and decrement write no flag, or CY and four drawn flags under `doc_literal`. -/
theorem State.flagsStep16_cases (cy : Bool) :
    (s.params.flagProfile = .canonical ∧ s.flagsStep16 cy = s) ∨
    (s.params.flagProfile = .docLiteral ∧ s.flagsStep16 cy = s.drawFlags cy) := by
  unfold State.flagsStep16
  split <;> rename_i h
  · exact .inl ⟨h, rfl⟩
  · exact .inr ⟨h, rfl⟩

/-! ### Control flow and ports -/

/-- R272: a conditional jump jumps, or nothing happens. -/
theorem State.jumpIf_cases (ccc : Cond) (target : Word) :
    (s.flags.cond ccc = true ∧ s.jumpIf ccc target = s.setPc target) ∨
    (s.flags.cond ccc = false ∧ s.jumpIf ccc target = s) := by
  cases h : s.flags.cond ccc <;> simp [State.jumpIf, h]

/-- R274: a conditional call calls, or nothing happens. -/
theorem State.callIf_cases (ccc : Cond) (target : Word) :
    (s.flags.cond ccc = true ∧ s.callIf ccc target = s.callTo target) ∨
    (s.flags.cond ccc = false ∧ s.callIf ccc target = s) := by
  cases h : s.flags.cond ccc <;> simp [State.callIf, h]

/-- R276: a conditional return returns, or nothing happens. -/
theorem State.returnIf_cases (ccc : Cond) :
    (s.flags.cond ccc = true ∧ s.returnIf ccc = s.returnFrom) ∨ (s.flags.cond ccc = false ∧ s.returnIf ccc = s) := by
  cases h : s.flags.cond ccc <;> simp [State.returnIf, h]

/-- R64: a call of the handler is logged, or nothing happens. -/
theorem State.callPort_cases (e : PortEvent) :
    (s.params.portHandler = .absent ∧ s.callPort e = s) ∨
    (s.params.portHandler ≠ .absent ∧ s.callPort e = { s with portLog := s.portLog ++ [e] }) := by
  unfold State.callPort
  split <;> rename_i h <;> simp [h]

/-! ### The run state: every shared operation keeps it, and only HLT changes it -/

@[simp] theorem State.writeRM_run (x : RegM) (v : Byte) : (s.writeRM x v).run = s.run :=
  (s.writeRM_frame x v).2.2.2.2.1

@[simp] theorem State.setRM_run (x : RegM) (r : Byte × Flags) : (s.setRM x r).run = s.run := by
  cases x <;> rfl

@[simp] theorem State.writePair_run (p : Pair) (v : Word) : (s.writePair p v).run = s.run :=
  (s.writePair_frame p v).2.2.2.1

@[simp] theorem State.writeStackPair_run (p : StackPair) (v : Word) : (s.writeStackPair p v).run = s.run :=
  (s.writeStackPair_frame p v).2.2.2.1

@[simp] theorem State.flagsAdd16_run (cy : Bool) : (s.flagsAdd16 cy).run = s.run := by
  obtain ⟨-, h⟩ | ⟨-, h⟩ := s.flagsAdd16_cases cy <;> rw [h] <;> rfl

@[simp] theorem State.flagsStep16_run (cy : Bool) : (s.flagsStep16 cy).run = s.run := by
  obtain ⟨-, h⟩ | ⟨-, h⟩ := s.flagsStep16_cases cy <;> rw [h]; rfl

@[simp] theorem State.jumpIf_run (ccc : Cond) (target : Word) : (s.jumpIf ccc target).run = s.run := by
  obtain ⟨-, h⟩ | ⟨-, h⟩ := s.jumpIf_cases ccc target <;> rw [h]; rfl

@[simp] theorem State.callIf_run (ccc : Cond) (target : Word) : (s.callIf ccc target).run = s.run := by
  obtain ⟨-, h⟩ | ⟨-, h⟩ := s.callIf_cases ccc target <;> rw [h]; rfl

@[simp] theorem State.returnIf_run (ccc : Cond) : (s.returnIf ccc).run = s.run := by
  obtain ⟨-, h⟩ | ⟨-, h⟩ := s.returnIf_cases ccc <;> rw [h]; rfl

@[simp] theorem State.callPort_run (e : PortEvent) : (s.callPort e).run = s.run := by
  obtain ⟨-, h⟩ | ⟨-, h⟩ := s.callPort_cases e <;> rw [h]

/-- Every instruction completes, in any state, and leaves the run state alone unless it is HLT, which halts (60_exceptions.md
R350, 47_io_machine_control.md R325). -/
theorem exec_run (i : Instr) (s : State) :
    ∃ t, exec i s = .next t ∧ (t.run = s.run ∨ (i = .hlt ∧ t.run = .halted)) := by
  cases i
  case hlt => exact ⟨_, rfl, .inr ⟨rfl, rfl⟩⟩
  all_goals exact ⟨_, rfl, .inl (by first | rfl | simp)⟩

/-! ### Fetch -/

/-- The window bytes from an address on: none where the address is outside, else its byte and those after it (R121). -/
theorem State.windowBytes_succ (a : Word) (n : Nat) :
    s.windowBytes a (n + 1) = if s.inWindow a then s.memRead a :: s.windowBytes (a + 1) n else [] :=
  rfl

/-- Under FETCH_WINDOW = memory every address may be fetched from (R121). -/
theorem State.inWindow_memory (h : s.params.fetchWindow = .memory) (a : Word) : s.inWindow a = true := by
  simp [State.inWindow, h]

/-- A state that is running steps by its fetch: the fault with nothing else changed, or the instruction with pc past it
(R132). -/
theorem step_running {s : State} (h : s.run = .running) :
    step s = match s.fetch with
      | .ok i => exec i (s.advancePc i.length)
      | .error r => .next (s.raise r) := by
  cases hf : s.fetch <;> simp [step, h, hf]

/-- What a step that answers a state did: it was running, and either the fetch failed or an instruction ran (R120, R132). -/
theorem step_cases {s t : State} (h : step s = .next t) :
    s.run = .running ∧
      ((∃ r, s.fetch = .error r ∧ t = s.raise r) ∨
        ∃ i, s.fetch = .ok i ∧ exec i (s.advancePc i.length) = .next t) := by
  cases hr : s.run with
  | running =>
    rw [step_running hr] at h
    refine ⟨rfl, ?_⟩
    cases hf : s.fetch with
    | ok i => rw [hf] at h; exact .inr ⟨i, rfl, h⟩
    | error r => rw [hf] at h; simp only [Host.Outcome.next.injEq] at h; exact .inl ⟨r, rfl, h.symm⟩
  | halted => simp [step, hr] at h
  | faulted r => simp [step, hr] at h

end Sys2Proof.Machine
end

