-- ==== Sys2Proof/Laws/Frame.lean ====
section
/-! SUPPORT. What each shared operation leaves unchanged, as a `Frame`, for the statements about instructions. -/

namespace Sys2Proof.Machine

variable {s t : State}

/-- A frame from its parts: registers, flags, the single cells, and memory byte by byte. -/
theorem Frame.of_parts {w : May}
    (hr : ∀ r : Reg, r ∉ w.regs → t.readReg r = s.readReg r)
    (hf : ∀ f : Flag, f ∉ w.flags → t.flag f = s.flag f)
    (hc : (w.sp = false → t.sp = s.sp) ∧ (w.pc = false → t.pc = s.pc) ∧ (w.inte = false → t.inte = s.inte) ∧
      (w.run = false → t.run = s.run) ∧ (w.ports = false → t.portLog = s.portLog) ∧
      (w.draws = false → t.drawCount = s.drawCount) ∧ t.params = s.params)
    (hm : ∀ a : Word, (∀ b ∈ w.stored, s.phys a ≠ s.phys b) → t.memRead a = s.memRead a) : Frame w s t := by
  obtain ⟨h1, h2, h3, h4, h5, h6, h7⟩ := hc
  exact ⟨hr, hf, h1, h2, h3, h4, h5, h6, h7, hm⟩

/-- Nothing changed. -/
theorem Frame.rfl_empty (s : State) : Frame {} s s :=
  Frame.of_parts (fun _ _ => rfl) (fun _ _ => rfl) (by simp) (fun _ _ => rfl)

/-- A conditional effect. -/
theorem Frame.when {w : May} (taken : Bool) (h : Frame w s t) : Frame (May.when taken w) s (if taken then t else s) := by
  cases taken
  · exact Frame.rfl_empty s
  · exact h

/-- R53: a byte written. -/
theorem Frame.memWrite (h : Memory.wf s.mem = true) (a : Word) (v : Byte) :
    Frame { stored := [a] } s (s.memWrite a v) := by
  refine Frame.of_parts ?_ ?_ (by simp) ?_
  · intro r _; cases r <;> rfl
  · intro f _; cases f <;> rfl
  · intro b hb
    rw [State.memRead_memWrite h, if_neg (hb a (by simp))]

/-- R55: a word written. -/
theorem Frame.memWrite16 (h : Memory.wf s.mem = true) (a v : Word) :
    Frame { stored := [a, a + 1] } s (s.memWrite16 a v) := by
  refine Frame.of_parts ?_ ?_ (by simp [State.memWrite16]) ?_
  · intro r _; cases r <;> rfl
  · intro f _; cases f <;> rfl
  · intro b hb
    rw [State.memRead_memWrite16 h, if_neg (hb (a + 1) (by simp)), if_neg (hb a (by simp))]

/-- R56: a word pushed. -/
theorem Frame.push16 (h : Memory.wf s.mem = true) (v : Word) :
    Frame { sp := true, stored := [s.sp - 1, s.sp - 2] } s (s.push16 v) := by
  refine Frame.of_parts ?_ ?_ ⟨(by intro h; cases h), fun _ => rfl, fun _ => rfl, fun _ => rfl, fun _ => rfl, fun _ => rfl, rfl⟩ ?_
  · intro r _; cases r <;> rfl
  · intro f _; cases f <;> rfl
  · intro b hb
    rw [State.memRead_push16 h, if_neg (hb (s.sp - 2) (by simp)), if_neg (hb (s.sp - 1) (by simp))]

/-- A jump. -/
theorem Frame.setPc (s : State) (target : Word) : Frame May.jump s (s.setPc target) := by
  refine Frame.of_parts ?_ ?_ ⟨fun _ => rfl, (by intro h; cases h), fun _ => rfl, fun _ => rfl, fun _ => rfl, fun _ => rfl, rfl⟩ ?_
  · intro r _; cases r <;> rfl
  · intro f _; cases f <;> rfl
  · exact fun _ _ => rfl

/-- R273: a call. -/
theorem Frame.callTo (h : Memory.wf s.mem = true) (target : Word) : Frame (May.call s) s (s.callTo target) := by
  refine Frame.of_parts ?_ ?_
    ⟨(by intro h; cases h), (by intro h; cases h), fun _ => rfl, fun _ => rfl, fun _ => rfl, fun _ => rfl, rfl⟩ ?_
  · intro r _; cases r <;> rfl
  · intro f _; cases f <;> rfl
  · exact (Frame.push16 h s.pc).2.2.2.2.2.2.2.2.2

/-- R275: a return. -/
theorem Frame.returnFrom (s : State) : Frame May.ret s s.returnFrom := by
  refine Frame.of_parts ?_ ?_
    ⟨(by intro h; cases h), (by intro h; cases h), fun _ => rfl, fun _ => rfl, fun _ => rfl, fun _ => rfl, rfl⟩ ?_
  · intro r _; cases r <;> rfl
  · intro f _; cases f <;> rfl
  · exact fun _ _ => rfl

end Sys2Proof.Machine
end

