-- ==== Sys2Proof/Laws/PerInstr.lean ====
section
/-! SUPPORT. Statements made per instruction: a family's Statement is about the instruction as syntax, with one lemma per
constructor. -/

namespace Sys2Proof.Laws.EncodeLength

/-- The encoder writes as many bytes as the instruction has, and the first of them fixes that number under every policy
whose table has the instruction (30_encoding.md R80, R90, R94). -/
def Statement (i : Instr) : Prop :=
  (encode i).length = i.length ∧
    ∀ pol : UndefPolicy, i.wf pol = true → ∃ op rest, encode i = op :: rest ∧ lengthOf pol op = i.length

/-- The two parts from one computation: the opcode byte and its length under each policy. -/
theorem of_opcode {i : Instr} (op : Byte) (rest : List Byte) (he : encode i = op :: rest)
    (hl : rest.length + 1 = i.length) (hw : ∀ pol : UndefPolicy, i.wf pol = true → lengthOf pol op = i.length) :
    Statement i :=
  ⟨by rw [he]; exact hl, fun pol h => ⟨op, rest, he, hw pol h⟩⟩

theorem movRR (dst : Reg) (src : Reg) : Statement (.movRR dst src) := by
  cases dst <;> cases src <;> exact of_opcode _ _ rfl rfl (by intro pol _; cases pol <;> rfl)

theorem movRM (dst : Reg) : Statement (.movRM dst) := by
  cases dst <;> exact of_opcode _ _ rfl rfl (by intro pol _; cases pol <;> rfl)

theorem movMR (src : Reg) : Statement (.movMR src) := by
  cases src <;> exact of_opcode _ _ rfl rfl (by intro pol _; cases pol <;> rfl)

theorem mvi (dst : RegM) (d8 : Byte) : Statement (.mvi dst d8) := by
  rcases dst with (_ | _ | _ | _ | _ | _ | _) | _ <;> exact of_opcode _ _ rfl rfl (by intro pol _; cases pol <;> rfl)

theorem lxi (rp : Pair) (d16 : Word) : Statement (.lxi rp d16) := by
  cases rp <;> exact of_opcode _ _ rfl rfl (by intro pol _; cases pol <;> rfl)

theorem lda (a16 : Word) : Statement (.lda a16) := by
  exact of_opcode _ _ rfl rfl (by intro pol _; cases pol <;> rfl)

theorem sta (a16 : Word) : Statement (.sta a16) := by
  exact of_opcode _ _ rfl rfl (by intro pol _; cases pol <;> rfl)

theorem lhld (a16 : Word) : Statement (.lhld a16) := by
  exact of_opcode _ _ rfl rfl (by intro pol _; cases pol <;> rfl)

theorem shld (a16 : Word) : Statement (.shld a16) := by
  exact of_opcode _ _ rfl rfl (by intro pol _; cases pol <;> rfl)

theorem ldax (rp : PtrPair) : Statement (.ldax rp) := by
  cases rp <;> exact of_opcode _ _ rfl rfl (by intro pol _; cases pol <;> rfl)

theorem stax (rp : PtrPair) : Statement (.stax rp) := by
  cases rp <;> exact of_opcode _ _ rfl rfl (by intro pol _; cases pol <;> rfl)

theorem xchg : Statement (.xchg) := by
  exact of_opcode _ _ rfl rfl (by intro pol _; cases pol <;> rfl)

theorem add (x : RegM) : Statement (.add x) := by
  rcases x with (_ | _ | _ | _ | _ | _ | _) | _ <;> exact of_opcode _ _ rfl rfl (by intro pol _; cases pol <;> rfl)

theorem adi (d8 : Byte) : Statement (.adi d8) := by
  exact of_opcode _ _ rfl rfl (by intro pol _; cases pol <;> rfl)

theorem adc (x : RegM) : Statement (.adc x) := by
  rcases x with (_ | _ | _ | _ | _ | _ | _) | _ <;> exact of_opcode _ _ rfl rfl (by intro pol _; cases pol <;> rfl)

theorem aci (d8 : Byte) : Statement (.aci d8) := by
  exact of_opcode _ _ rfl rfl (by intro pol _; cases pol <;> rfl)

theorem sub (x : RegM) : Statement (.sub x) := by
  rcases x with (_ | _ | _ | _ | _ | _ | _) | _ <;> exact of_opcode _ _ rfl rfl (by intro pol _; cases pol <;> rfl)

theorem sui (d8 : Byte) : Statement (.sui d8) := by
  exact of_opcode _ _ rfl rfl (by intro pol _; cases pol <;> rfl)

theorem sbb (x : RegM) : Statement (.sbb x) := by
  rcases x with (_ | _ | _ | _ | _ | _ | _) | _ <;> exact of_opcode _ _ rfl rfl (by intro pol _; cases pol <;> rfl)

theorem sbi (d8 : Byte) : Statement (.sbi d8) := by
  exact of_opcode _ _ rfl rfl (by intro pol _; cases pol <;> rfl)

theorem inr (x : RegM) : Statement (.inr x) := by
  rcases x with (_ | _ | _ | _ | _ | _ | _) | _ <;> exact of_opcode _ _ rfl rfl (by intro pol _; cases pol <;> rfl)

theorem dcr (x : RegM) : Statement (.dcr x) := by
  rcases x with (_ | _ | _ | _ | _ | _ | _) | _ <;> exact of_opcode _ _ rfl rfl (by intro pol _; cases pol <;> rfl)

theorem inx (rp : Pair) : Statement (.inx rp) := by
  cases rp <;> exact of_opcode _ _ rfl rfl (by intro pol _; cases pol <;> rfl)

theorem dcx (rp : Pair) : Statement (.dcx rp) := by
  cases rp <;> exact of_opcode _ _ rfl rfl (by intro pol _; cases pol <;> rfl)

theorem dad (rp : Pair) : Statement (.dad rp) := by
  cases rp <;> exact of_opcode _ _ rfl rfl (by intro pol _; cases pol <;> rfl)

theorem daa : Statement (.daa) := by
  exact of_opcode _ _ rfl rfl (by intro pol _; cases pol <;> rfl)

theorem cmp (x : RegM) : Statement (.cmp x) := by
  rcases x with (_ | _ | _ | _ | _ | _ | _) | _ <;> exact of_opcode _ _ rfl rfl (by intro pol _; cases pol <;> rfl)

theorem cpi (d8 : Byte) : Statement (.cpi d8) := by
  exact of_opcode _ _ rfl rfl (by intro pol _; cases pol <;> rfl)

theorem ana (x : RegM) : Statement (.ana x) := by
  rcases x with (_ | _ | _ | _ | _ | _ | _) | _ <;> exact of_opcode _ _ rfl rfl (by intro pol _; cases pol <;> rfl)

theorem ani (d8 : Byte) : Statement (.ani d8) := by
  exact of_opcode _ _ rfl rfl (by intro pol _; cases pol <;> rfl)

theorem xra (x : RegM) : Statement (.xra x) := by
  rcases x with (_ | _ | _ | _ | _ | _ | _) | _ <;> exact of_opcode _ _ rfl rfl (by intro pol _; cases pol <;> rfl)

theorem xri (d8 : Byte) : Statement (.xri d8) := by
  exact of_opcode _ _ rfl rfl (by intro pol _; cases pol <;> rfl)

theorem ora (x : RegM) : Statement (.ora x) := by
  rcases x with (_ | _ | _ | _ | _ | _ | _) | _ <;> exact of_opcode _ _ rfl rfl (by intro pol _; cases pol <;> rfl)

theorem ori (d8 : Byte) : Statement (.ori d8) := by
  exact of_opcode _ _ rfl rfl (by intro pol _; cases pol <;> rfl)

theorem rlc : Statement (.rlc) := by
  exact of_opcode _ _ rfl rfl (by intro pol _; cases pol <;> rfl)

theorem rrc : Statement (.rrc) := by
  exact of_opcode _ _ rfl rfl (by intro pol _; cases pol <;> rfl)

theorem ral : Statement (.ral) := by
  exact of_opcode _ _ rfl rfl (by intro pol _; cases pol <;> rfl)

theorem rar : Statement (.rar) := by
  exact of_opcode _ _ rfl rfl (by intro pol _; cases pol <;> rfl)

theorem cma : Statement (.cma) := by
  exact of_opcode _ _ rfl rfl (by intro pol _; cases pol <;> rfl)

theorem cmc : Statement (.cmc) := by
  exact of_opcode _ _ rfl rfl (by intro pol _; cases pol <;> rfl)

theorem stc : Statement (.stc) := by
  exact of_opcode _ _ rfl rfl (by intro pol _; cases pol <;> rfl)

theorem jmp (a16 : Word) : Statement (.jmp a16) := by
  exact of_opcode _ _ rfl rfl (by intro pol _; cases pol <;> rfl)

theorem jnz (a16 : Word) : Statement (.jnz a16) := by
  exact of_opcode _ _ rfl rfl (by intro pol _; cases pol <;> rfl)

theorem jz (a16 : Word) : Statement (.jz a16) := by
  exact of_opcode _ _ rfl rfl (by intro pol _; cases pol <;> rfl)

theorem jnc (a16 : Word) : Statement (.jnc a16) := by
  exact of_opcode _ _ rfl rfl (by intro pol _; cases pol <;> rfl)

theorem jc (a16 : Word) : Statement (.jc a16) := by
  exact of_opcode _ _ rfl rfl (by intro pol _; cases pol <;> rfl)

theorem jpo (a16 : Word) : Statement (.jpo a16) := by
  exact of_opcode _ _ rfl rfl (by intro pol _; cases pol <;> rfl)

theorem jpe (a16 : Word) : Statement (.jpe a16) := by
  exact of_opcode _ _ rfl rfl (by intro pol _; cases pol <;> rfl)

theorem jp (a16 : Word) : Statement (.jp a16) := by
  exact of_opcode _ _ rfl rfl (by intro pol _; cases pol <;> rfl)

theorem jm (a16 : Word) : Statement (.jm a16) := by
  exact of_opcode _ _ rfl rfl (by intro pol _; cases pol <;> rfl)

theorem call (a16 : Word) : Statement (.call a16) := by
  exact of_opcode _ _ rfl rfl (by intro pol _; cases pol <;> rfl)

theorem cnz (a16 : Word) : Statement (.cnz a16) := by
  exact of_opcode _ _ rfl rfl (by intro pol _; cases pol <;> rfl)

theorem cz (a16 : Word) : Statement (.cz a16) := by
  exact of_opcode _ _ rfl rfl (by intro pol _; cases pol <;> rfl)

theorem cnc (a16 : Word) : Statement (.cnc a16) := by
  exact of_opcode _ _ rfl rfl (by intro pol _; cases pol <;> rfl)

theorem cc (a16 : Word) : Statement (.cc a16) := by
  exact of_opcode _ _ rfl rfl (by intro pol _; cases pol <;> rfl)

theorem cpo (a16 : Word) : Statement (.cpo a16) := by
  exact of_opcode _ _ rfl rfl (by intro pol _; cases pol <;> rfl)

theorem cpe (a16 : Word) : Statement (.cpe a16) := by
  exact of_opcode _ _ rfl rfl (by intro pol _; cases pol <;> rfl)

theorem cp (a16 : Word) : Statement (.cp a16) := by
  exact of_opcode _ _ rfl rfl (by intro pol _; cases pol <;> rfl)

theorem cm (a16 : Word) : Statement (.cm a16) := by
  exact of_opcode _ _ rfl rfl (by intro pol _; cases pol <;> rfl)

theorem ret : Statement (.ret) := by
  exact of_opcode _ _ rfl rfl (by intro pol _; cases pol <;> rfl)

theorem rnz : Statement (.rnz) := by
  exact of_opcode _ _ rfl rfl (by intro pol _; cases pol <;> rfl)

theorem rz : Statement (.rz) := by
  exact of_opcode _ _ rfl rfl (by intro pol _; cases pol <;> rfl)

theorem rnc : Statement (.rnc) := by
  exact of_opcode _ _ rfl rfl (by intro pol _; cases pol <;> rfl)

theorem rc : Statement (.rc) := by
  exact of_opcode _ _ rfl rfl (by intro pol _; cases pol <;> rfl)

theorem rpo : Statement (.rpo) := by
  exact of_opcode _ _ rfl rfl (by intro pol _; cases pol <;> rfl)

theorem rpe : Statement (.rpe) := by
  exact of_opcode _ _ rfl rfl (by intro pol _; cases pol <;> rfl)

theorem rp : Statement (.rp) := by
  exact of_opcode _ _ rfl rfl (by intro pol _; cases pol <;> rfl)

theorem rm : Statement (.rm) := by
  exact of_opcode _ _ rfl rfl (by intro pol _; cases pol <;> rfl)

theorem rst (n : BitVec 3) : Statement (.rst n) := by
  refine of_opcode (opcodeOf 3 n 7) [] rfl rfl ?_
  intro pol _
  revert n
  cases pol <;> decide

theorem pchl : Statement (.pchl) := by
  exact of_opcode _ _ rfl rfl (by intro pol _; cases pol <;> rfl)

theorem push (rp : StackPair) : Statement (.push rp) := by
  cases rp <;> exact of_opcode _ _ rfl rfl (by intro pol _; cases pol <;> rfl)

theorem pop (rp : StackPair) : Statement (.pop rp) := by
  cases rp <;> exact of_opcode _ _ rfl rfl (by intro pol _; cases pol <;> rfl)

theorem xthl : Statement (.xthl) := by
  exact of_opcode _ _ rfl rfl (by intro pol _; cases pol <;> rfl)

theorem sphl : Statement (.sphl) := by
  exact of_opcode _ _ rfl rfl (by intro pol _; cases pol <;> rfl)

theorem inp (port : Byte) : Statement (.inp port) := by
  exact of_opcode _ _ rfl rfl (by intro pol _; cases pol <;> rfl)

theorem out (port : Byte) : Statement (.out port) := by
  exact of_opcode _ _ rfl rfl (by intro pol _; cases pol <;> rfl)

theorem ei : Statement (.ei) := by
  exact of_opcode _ _ rfl rfl (by intro pol _; cases pol <;> rfl)

theorem di : Statement (.di) := by
  exact of_opcode _ _ rfl rfl (by intro pol _; cases pol <;> rfl)

theorem hlt : Statement (.hlt) := by
  exact of_opcode _ _ rfl rfl (by intro pol _; cases pol <;> rfl)

theorem nop : Statement (.nop) := by
  exact of_opcode _ _ rfl rfl (by intro pol _; cases pol <;> rfl)

theorem starNop (u : UndefOp) : Statement (.starNop u) := by
  cases u <;> exact of_opcode _ _ rfl rfl (by intro pol h; revert h; cases pol <;> decide)

theorem starJmp (a16 : Word) : Statement (.starJmp a16) := by
  exact of_opcode _ _ rfl rfl (by intro pol h; cases pol <;> [simp [Instr.wf] at h; rfl])

theorem starRet : Statement (.starRet) := by
  exact of_opcode _ _ rfl rfl (by intro pol h; revert h; cases pol <;> decide)

theorem starCall (u : UndefOp) (a16 : Word) : Statement (.starCall u a16) := by
  cases u <;> exact of_opcode _ _ rfl rfl (by intro pol h; revert h; cases pol <;> simp [Instr.wf, UndefOp.callsWhenAliased] <;> rfl)

end Sys2Proof.Laws.EncodeLength
end

