-- ==== Sys2Proof/Tests/Slice0.lean ====
section
/-! SUPPORT. Tests: ill-formed terms refused, a word of every constructor decoded, one-step vectors of 95_test_vectors.md,
faults, the start of a run, the disassembler, and for every statement with hypotheses a witness that meets them. -/

namespace Sys2Proof.Tests

open Sys2Proof.Machine

/-! ### Helpers -/

/-- Every register and flag 0 and the whole memory as the fetch window, with code at an address and pc there, as the
convention of 95_test_vectors.md section 2 has it. -/
def startAt (a : Word) (code : List Byte) : State :=
  { State.reset with pc := a, params := { fetchWindow := .memory } }.loadBytes a code

/-- The same at 0x0100. -/
def start (code : List Byte) : State := startAt 0x0100 code

/-- FLAG_PROFILE = doc_literal. -/
def literalFlags (s : State) : State := { s with params := { s.params with flagProfile := .docLiteral } }

/-- ANA_AC = or_bit3. -/
def orBit3 (s : State) : State := { s with params := { s.params with anaAc := .orBit3 } }

/-- UNDEF_POLICY = alias. -/
def underAlias (s : State) : State := { s with params := { s.params with undefPolicy := .aliased } }

/-- A handler that names these answers. -/
def handledBy (answers : List Byte) (s : State) : State :=
  { s with params := { s.params with portHandler := .present answers } }

/-- MEM_SIZE. -/
def withMemory (n : Nat) (s : State) : State := { s with params := { s.params with memSize := n } }

/-- FETCH_WINDOW = image, with the image of a length at pc. -/
def inImage (n : Nat) (s : State) : State :=
  { s with params := { s.params with base := s.pc, imageLen := n, fetchWindow := .image } }

/-- The state after one step, and whether there is one. -/
def ran (s : State) : State × Bool :=
  match step s with
  | .next t => (t, true)
  | .fault _ => (s, false)
  | .refused _ => (s, false)

/-- One step answers a next state with the property. -/
abbrev runsTo (s : State) (p : State → Prop) : Prop := (ran s).2 = true ∧ p (ran s).1

/-! ### Ill-formed terms -/

theorem test_wf_star_nop_of_an_aliased_jump_refused : Instr.wf .aliased (.starNop .xCB) = false := by decide

theorem test_wf_star_nop_of_a_plain_nop_accepted : Instr.wf .aliased (.starNop .x38) = true := by decide

theorem test_wf_star_jmp_under_nop_refused : Instr.wf .nop (.starJmp 0x1234) = false := by decide

theorem test_wf_star_ret_under_nop_refused : Instr.wf .nop .starRet = false := by decide

theorem test_wf_star_call_under_nop_refused : Instr.wf .nop (.starCall .xDD 0x1234) = false := by decide

theorem test_wf_star_call_of_another_opcode_refused : Instr.wf .aliased (.starCall .xCB 0x1234) = false := by decide

theorem test_wf_memory_size_zero_refused : Params.wf { memSize := 0 } = false := by decide

theorem test_wf_memory_size_above_range_refused : Params.wf { memSize := 65537 } = false := by decide

theorem test_wf_image_above_memory_refused : Params.wf { memSize := 2, imageLen := 3 } = false := by decide

theorem test_wf_memory_of_one_byte_accepted : Params.wf { memSize := 1, imageLen := 1 } = true := by decide

theorem test_memory_form_refuses_an_unlisted_byte : Memory.wf [(3, 0x00)] = false := by decide

theorem test_memory_form_refuses_a_falling_index : Memory.wf [(3, 0x01), (2, 0x01)] = false := by decide

theorem test_memory_below_refuses_an_index_at_the_capacity : Memory.below 3 [(3, 0x01)] = false := by decide

/-! ### Decoding: a word of every constructor, from the formats of R82 with the field codes of R84 to R88 -/

theorem test_decode_data_movement :
    decode .nop [0b01011100] = .ok (.movRR .e .h, []) ∧
    decode .nop [0b01101110] = .ok (.movRM .l, []) ∧
    decode .nop [0b01110010] = .ok (.movMR .d, []) ∧
    decode .nop [0b00111110, 0x2A] = .ok (.mvi (.reg .a) 0x2A, []) ∧
    decode .nop [0b00110110, 0x2A] = .ok (.mvi .m 0x2A, []) ∧
    decode .nop [0b00110001, 0x34, 0x12] = .ok (.lxi .sp 0x1234, []) ∧
    decode .nop [0b00111010, 0x34, 0x12] = .ok (.lda 0x1234, []) ∧
    decode .nop [0b00110010, 0x34, 0x12] = .ok (.sta 0x1234, []) ∧
    decode .nop [0b00101010, 0x34, 0x12] = .ok (.lhld 0x1234, []) ∧
    decode .nop [0b00100010, 0x34, 0x12] = .ok (.shld 0x1234, []) ∧
    decode .nop [0b00011010] = .ok (.ldax .de, []) ∧
    decode .nop [0b00000010] = .ok (.stax .bc, []) ∧
    decode .nop [0b11101011] = .ok (.xchg, []) := by
  and_intros <;> decide

theorem test_decode_arithmetic :
    decode .nop [0b10000000] = .ok (.add (.reg .b), []) ∧
    decode .nop [0b11000110, 0x7F] = .ok (.adi 0x7F, []) ∧
    decode .nop [0b10001110] = .ok (.adc .m, []) ∧
    decode .nop [0b11001110, 0x7F] = .ok (.aci 0x7F, []) ∧
    decode .nop [0b10010111] = .ok (.sub (.reg .a), []) ∧
    decode .nop [0b11010110, 0x7F] = .ok (.sui 0x7F, []) ∧
    decode .nop [0b10011101] = .ok (.sbb (.reg .l), []) ∧
    decode .nop [0b11011110, 0x7F] = .ok (.sbi 0x7F, []) ∧
    decode .nop [0b00100100] = .ok (.inr (.reg .h), []) ∧
    decode .nop [0b00110101] = .ok (.dcr .m, []) ∧
    decode .nop [0b00010011] = .ok (.inx .de, []) ∧
    decode .nop [0b00111011] = .ok (.dcx .sp, []) ∧
    decode .nop [0b00101001] = .ok (.dad .hl, []) ∧
    decode .nop [0b00100111] = .ok (.daa, []) ∧
    decode .nop [0b10111011] = .ok (.cmp (.reg .e), []) ∧
    decode .nop [0b11111110, 0x7F] = .ok (.cpi 0x7F, []) := by
  and_intros <;> decide

theorem test_decode_logical :
    decode .nop [0b10100001] = .ok (.ana (.reg .c), []) ∧
    decode .nop [0b11100110, 0x0F] = .ok (.ani 0x0F, []) ∧
    decode .nop [0b10101111] = .ok (.xra (.reg .a), []) ∧
    decode .nop [0b11101110, 0x0F] = .ok (.xri 0x0F, []) ∧
    decode .nop [0b10110110] = .ok (.ora .m, []) ∧
    decode .nop [0b11110110, 0x0F] = .ok (.ori 0x0F, []) ∧
    decode .nop [0b00000111] = .ok (.rlc, []) ∧
    decode .nop [0b00001111] = .ok (.rrc, []) ∧
    decode .nop [0b00010111] = .ok (.ral, []) ∧
    decode .nop [0b00011111] = .ok (.rar, []) ∧
    decode .nop [0b00101111] = .ok (.cma, []) ∧
    decode .nop [0b00111111] = .ok (.cmc, []) ∧
    decode .nop [0b00110111] = .ok (.stc, []) := by
  and_intros <;> decide

theorem test_decode_jumps :
    decode .nop [0b11000011, 0x34, 0x12] = .ok (.jmp 0x1234, []) ∧
    decode .nop [0b11000010, 0x34, 0x12] = .ok (.jnz 0x1234, []) ∧
    decode .nop [0b11001010, 0x34, 0x12] = .ok (.jz 0x1234, []) ∧
    decode .nop [0b11010010, 0x34, 0x12] = .ok (.jnc 0x1234, []) ∧
    decode .nop [0b11011010, 0x34, 0x12] = .ok (.jc 0x1234, []) ∧
    decode .nop [0b11100010, 0x34, 0x12] = .ok (.jpo 0x1234, []) ∧
    decode .nop [0b11101010, 0x34, 0x12] = .ok (.jpe 0x1234, []) ∧
    decode .nop [0b11110010, 0x34, 0x12] = .ok (.jp 0x1234, []) ∧
    decode .nop [0b11111010, 0x34, 0x12] = .ok (.jm 0x1234, []) ∧
    decode .nop [0b11101001] = .ok (.pchl, []) := by
  and_intros <;> decide

theorem test_decode_calls :
    decode .nop [0b11001101, 0x34, 0x12] = .ok (.call 0x1234, []) ∧
    decode .nop [0b11000100, 0x34, 0x12] = .ok (.cnz 0x1234, []) ∧
    decode .nop [0b11001100, 0x34, 0x12] = .ok (.cz 0x1234, []) ∧
    decode .nop [0b11010100, 0x34, 0x12] = .ok (.cnc 0x1234, []) ∧
    decode .nop [0b11011100, 0x34, 0x12] = .ok (.cc 0x1234, []) ∧
    decode .nop [0b11100100, 0x34, 0x12] = .ok (.cpo 0x1234, []) ∧
    decode .nop [0b11101100, 0x34, 0x12] = .ok (.cpe 0x1234, []) ∧
    decode .nop [0b11110100, 0x34, 0x12] = .ok (.cp 0x1234, []) ∧
    decode .nop [0b11111100, 0x34, 0x12] = .ok (.cm 0x1234, []) ∧
    decode .nop [0b11101111] = .ok (.rst 5, []) := by
  and_intros <;> decide

theorem test_decode_returns :
    decode .nop [0b11001001] = .ok (.ret, []) ∧
    decode .nop [0b11000000] = .ok (.rnz, []) ∧
    decode .nop [0b11001000] = .ok (.rz, []) ∧
    decode .nop [0b11010000] = .ok (.rnc, []) ∧
    decode .nop [0b11011000] = .ok (.rc, []) ∧
    decode .nop [0b11100000] = .ok (.rpo, []) ∧
    decode .nop [0b11101000] = .ok (.rpe, []) ∧
    decode .nop [0b11110000] = .ok (.rp, []) ∧
    decode .nop [0b11111000] = .ok (.rm, []) := by
  and_intros <;> decide

theorem test_decode_stack :
    decode .nop [0b11010101] = .ok (.push .de, []) ∧
    decode .nop [0b11110101] = .ok (.push .psw, []) ∧
    decode .nop [0b11100001] = .ok (.pop .hl, []) ∧
    decode .nop [0b11110001] = .ok (.pop .psw, []) ∧
    decode .nop [0b11100011] = .ok (.xthl, []) ∧
    decode .nop [0b11111001] = .ok (.sphl, []) := by
  and_intros <;> decide

theorem test_decode_io_and_control :
    decode .nop [0b11011011, 0x01] = .ok (.inp 0x01, []) ∧
    decode .nop [0b11010011, 0x03] = .ok (.out 0x03, []) ∧
    decode .nop [0b11111011] = .ok (.ei, []) ∧
    decode .nop [0b11110011] = .ok (.di, []) ∧
    decode .nop [0b01110110] = .ok (.hlt, []) ∧
    decode .nop [0b00000000] = .ok (.nop, []) ∧
    decode .nop [0b00010000] = .ok (.starNop .x10, []) ∧
    decode .aliased [0b00010000] = .ok (.starNop .x10, []) ∧
    decode .aliased [0b11001011, 0x34, 0x12] = .ok (.starJmp 0x1234, []) ∧
    decode .aliased [0b11011001] = .ok (.starRet, []) ∧
    decode .aliased [0b11101101, 0x34, 0x12] = .ok (.starCall .xED 0x1234, []) := by
  and_intros <;> decide

/-- R85, R86: every pair code. -/
theorem test_decode_pair_codes :
    decode .nop [0b00000011] = .ok (.inx .bc, []) ∧ decode .nop [0b00100011] = .ok (.inx .hl, []) ∧
    decode .nop [0b00001010] = .ok (.ldax .bc, []) ∧ decode .nop [0b00010010] = .ok (.stax .de, []) ∧
    decode .nop [0b11000101] = .ok (.push .bc, []) ∧ decode .nop [0b11100101] = .ok (.push .hl, []) := by
  decide

/-- R96: a stream that ends too early, and R95: the bytes after an instruction. -/
theorem test_decode_short_stream :
    decode .nop [] = .error .incompleteInstruction ∧ decode .nop [0xC3, 0x34] = .error .incompleteInstruction ∧
    decode .nop [0xCB, 0x34] = .ok (.starNop .xCB, [0x34]) ∧
    decode .aliased [0xCB, 0x34] = .error .incompleteInstruction := by
  decide

/-- The table's numbering: byte 2 of a word is bits 15 to 8, and the bits above `nbits` are 0. -/
theorem test_decode_table_words :
    decodeTableWord 8 0x41 = some (.movRR .b .c) ∧ decodeTableWord 16 0x2A06 = some (.mvi (.reg .b) 0x2A) ∧
    decodeTableWord 24 0x1234C3 = some (.jmp 0x1234) ∧ decodeTableWord 8 0xFFC3 = some (.jmp 0x0000) := by
  decide

/-- A table word stored where the first step after reset fetches. -/
theorem test_fetch_word_runs :
    runsTo (State.reset.withFetchWord 24 0x1234C3) fun t => t.pc = 0x1234 ∧ t.run = .running := by
  decide

/-! ### Data movement: vectors of 95_test_vectors.md -/

/-- V1 (R171). -/
theorem test_mov_register : runsTo (start [0x41] |>.writeReg .c 0x5A) fun t => t.regs.b = 0x5A := by decide

/-- V4 (R172). -/
theorem test_mov_from_memory : runsTo (start [0x66] |>.writeReg .h 0x20 |>.writeReg .l 0x00 |>.memWrite 0x2000 0x12)
    fun t => t.regs.h = 0x12 := by decide

/-- V6 (R173). -/
theorem test_mov_to_memory : runsTo (start [0x74] |>.writeReg .h 0x20 |>.writeReg .l 0x10)
    fun t => t.memRead 0x2010 = 0x20 := by decide

/-- V7 (R174). -/
theorem test_mvi_register : runsTo (start [0x06, 0x2A]) fun t => t.regs.b = 0x2A := by decide

/-- V9 (R175). -/
theorem test_mvi_memory : runsTo (start [0x36, 0x99] |>.writeReg .h 0x30 |>.writeReg .l 0x00)
    fun t => t.memRead 0x3000 = 0x99 := by decide

/-- V10 (R176). -/
theorem test_lxi_pair : runsTo (start [0x01, 0x34, 0x12]) fun t => t.regs.b = 0x12 ∧ t.regs.c = 0x34 := by decide

/-- V11 (R176). -/
theorem test_lxi_sp : runsTo (start [0x31, 0x00, 0x24]) fun t => t.sp = 0x2400 := by decide

/-- V12 (R177). -/
theorem test_lda : runsTo (start [0x3A, 0x00, 0x20] |>.memWrite 0x2000 0x5B) fun t => t.regs.a = 0x5B := by decide

/-- V13 (R178). -/
theorem test_sta : runsTo (start [0x32, 0xFF, 0xFF] |>.writeReg .a 0xAA) fun t => t.memRead 0xFFFF = 0xAA := by decide

/-- V15 (R179). -/
theorem test_lhld_wraps : runsTo (start [0x2A, 0xFF, 0xFF] |>.memWrite 0xFFFF 0x34 |>.memWrite 0x0000 0x12)
    fun t => t.regs.h = 0x12 ∧ t.regs.l = 0x34 := by decide

/-- V16 (R180). -/
theorem test_shld : runsTo (start [0x22, 0x00, 0x20] |>.writeReg .h 0xAB |>.writeReg .l 0xCD)
    fun t => t.memRead 0x2000 = 0xCD ∧ t.memRead 0x2001 = 0xAB := by decide

/-- V17 (R181). -/
theorem test_ldax_b : runsTo (start [0x0A] |>.writeReg .b 0x20 |>.writeReg .c 0x00 |>.memWrite 0x2000 0x9F)
    fun t => t.regs.a = 0x9F := by decide

/-- V18 (R181). -/
theorem test_ldax_d : runsTo (start [0x1A] |>.writeReg .d 0x20 |>.writeReg .e 0x01 |>.memWrite 0x2001 0x11)
    fun t => t.regs.a = 0x11 := by decide

/-- V19 (R182). -/
theorem test_stax_d : runsTo (start [0x12] |>.writeReg .a 0x44 |>.writeReg .d 0x20 |>.writeReg .e 0x01)
    fun t => t.memRead 0x2001 = 0x44 := by decide

/-- V20 (R182). -/
theorem test_stax_b : runsTo (start [0x02] |>.writeReg .a 0x45 |>.writeReg .b 0x20 |>.writeReg .c 0x02)
    fun t => t.memRead 0x2002 = 0x45 := by decide

/-- V21 (R183). -/
theorem test_xchg : runsTo (start [0xEB] |>.writeReg .h 0x12 |>.writeReg .l 0x34 |>.writeReg .d 0xAB |>.writeReg .e 0xCD)
    fun t => t.regs.d = 0x12 ∧ t.regs.e = 0x34 ∧ t.regs.h = 0xAB ∧ t.regs.l = 0xCD := by decide

/-! ### Arithmetic: vectors of 95_test_vectors.md -/

/-- V22 (R201). -/
theorem test_add_carries : runsTo (start [0x80] |>.writeReg .a 0x3A |>.writeReg .b 0xC6)
    fun t => t.regs.a = 0x00 ∧ t.flags = ⟨false, true, true, true, true⟩ := by decide

/-- V26 (R202). -/
theorem test_add_memory : runsTo (start [0x86] |>.writeReg .a 0x10 |>.writeReg .h 0x20 |>.writeReg .l 0x00 |>.memWrite 0x2000 0xF0)
    fun t => t.regs.a = 0x00 ∧ t.flags = ⟨false, true, false, true, true⟩ := by decide

/-- V27 (R203). -/
theorem test_adi : runsTo (start [0xC6, 0x0F] |>.writeReg .a 0x01)
    fun t => t.regs.a = 0x10 ∧ t.flags = ⟨false, false, true, false, false⟩ := by decide

/-- V29 (R204). -/
theorem test_adc : runsTo (start [0x88] |>.setFlags ⟨false, false, false, false, true⟩ |>.writeReg .a 0x0E |>.writeReg .b 0x01)
    fun t => t.regs.a = 0x10 ∧ t.flags = ⟨false, false, true, false, false⟩ := by decide

/-- V30 (R205). -/
theorem test_adc_memory : runsTo (start [0x8E] |>.writeReg .a 0x01 |>.writeReg .h 0x20 |>.writeReg .l 0x00 |>.memWrite 0x2000 0xFE)
    fun t => t.regs.a = 0xFF ∧ t.flags = ⟨true, false, false, true, false⟩ := by decide

/-- V31 (R206). -/
theorem test_aci : runsTo (start [0xCE, 0x00] |>.setFlags ⟨false, false, false, false, true⟩ |>.writeReg .a 0x3D)
    fun t => t.regs.a = 0x3E ∧ t.flags = ⟨false, false, false, false, false⟩ := by decide

/-- V34 (R207). -/
theorem test_sub_borrows : runsTo (start [0x90] |>.writeReg .a 0x00 |>.writeReg .b 0x01)
    fun t => t.regs.a = 0xFF ∧ t.flags = ⟨true, false, false, true, true⟩ := by decide

/-- V35 (R207). -/
theorem test_sub_same : runsTo (start [0x97] |>.setFlags ⟨false, false, false, false, true⟩ |>.writeReg .a 0x5A)
    fun t => t.regs.a = 0x00 ∧ t.flags = ⟨false, true, true, true, false⟩ := by decide

/-- V37 (R209). -/
theorem test_sui : runsTo (start [0xD6, 0x01] |>.writeReg .a 0x00)
    fun t => t.regs.a = 0xFF ∧ t.flags = ⟨true, false, false, true, true⟩ := by decide

/-- V39 (R210). -/
theorem test_sbb_full_borrow : runsTo (start [0x99] |>.setFlags ⟨false, false, false, false, true⟩ |>.writeReg .a 0x00 |>.writeReg .c 0xFF)
    fun t => t.flags = ⟨false, true, false, true, true⟩ := by decide

/-- V40 (R211). -/
theorem test_sbb_memory : runsTo (start [0x9E] |>.setFlags ⟨false, false, false, false, true⟩ |>.writeReg .a 0x10 |>.writeReg .h 0x20 |>.writeReg .l 0x00 |>.memWrite 0x2000 0x0F)
    fun t => t.regs.a = 0x00 ∧ t.flags = ⟨false, true, false, true, false⟩ := by decide

/-- V41 (R212). -/
theorem test_sbi : runsTo (start [0xDE, 0x00] |>.setFlags ⟨false, false, false, false, true⟩ |>.writeReg .a 0x00)
    fun t => t.regs.a = 0xFF ∧ t.flags = ⟨true, false, false, true, true⟩ := by decide

/-- V42 (R213). -/
theorem test_inr_wraps : runsTo (start [0x04] |>.writeReg .b 0xFF)
    fun t => t.regs.b = 0x00 ∧ t.flags = ⟨false, true, true, true, false⟩ := by decide

/-- V43 (R213). -/
theorem test_inr_doc_literal : runsTo (literalFlags (start [0x04] |>.writeReg .b 0xFF))
    fun t => t.regs.b = 0x00 ∧ t.flags = ⟨false, true, true, true, true⟩ := by decide

/-- V46 (R215). -/
theorem test_dcr_wraps : runsTo (start [0x05] |>.writeReg .b 0x00)
    fun t => t.regs.b = 0xFF ∧ t.flags = ⟨true, false, false, true, false⟩ := by decide

/-- V49 (R216). -/
theorem test_dcr_memory : runsTo (start [0x35] |>.writeReg .h 0x20 |>.writeReg .l 0x00 |>.memWrite 0x2000 0x10)
    fun t => t.memRead 0x2000 = 0x0F ∧ t.flags = ⟨false, false, false, true, false⟩ := by decide

/-- V51 (R217). -/
theorem test_inx_carries : runsTo (start [0x13] |>.writeReg .d 0x00 |>.writeReg .e 0xFF)
    fun t => t.regs.d = 0x01 ∧ t.regs.e = 0x00 ∧ t.flags = ⟨false, false, false, false, false⟩ := by decide

/-- V157 (R217). -/
theorem test_inx_doc_literal : runsTo (literalFlags (start [0x23] |>.writeReg .h 0xFF |>.writeReg .l 0xFF))
    fun t => t.regs.h = 0x00 ∧ t.regs.l = 0x00 ∧ t.flags.cy = true := by decide

/-- V54 (R218). -/
theorem test_dcx_sp : runsTo (start [0x3B] |>.setSp 0x0000)
    fun t => t.sp = 0xFFFF ∧ t.flags = ⟨false, false, false, false, false⟩ := by decide

/-- V158 (R218). -/
theorem test_dcx_doc_literal : runsTo (literalFlags (start [0x0B] |>.writeReg .b 0x00 |>.writeReg .c 0x00))
    fun t => t.regs.b = 0xFF ∧ t.regs.c = 0xFF ∧ t.flags.cy = true := by decide

/-- V56 (R219). -/
theorem test_dad_clears_carry : runsTo (start [0x19] |>.setFlags ⟨false, false, false, false, true⟩ |>.writeReg .h 0x12 |>.writeReg .l 0x34 |>.writeReg .d 0x11 |>.writeReg .e 0x11)
    fun t => t.regs.h = 0x23 ∧ t.regs.l = 0x45 ∧ t.flags = ⟨false, false, false, false, false⟩ := by decide

/-- V58 (R219). -/
theorem test_dad_sp : runsTo (start [0x39] |>.writeReg .h 0x00 |>.writeReg .l 0x10 |>.setSp 0xFFF0)
    fun t => t.regs.l = 0x00 ∧ t.flags = ⟨false, false, false, false, true⟩ := by decide

/-- V61 (R220). -/
theorem test_daa_both_digits : runsTo (start [0x27] |>.writeReg .a 0x9A)
    fun t => t.regs.a = 0x00 ∧ t.flags = ⟨false, true, true, true, true⟩ := by decide

/-- V63 (R220). -/
theorem test_daa_keeps_carry : runsTo (start [0x27] |>.setFlags ⟨false, false, false, false, true⟩ |>.writeReg .a 0x15)
    fun t => t.regs.a = 0x75 ∧ t.flags = ⟨false, false, false, false, true⟩ := by decide

/-- V65 (R221). -/
theorem test_cmp_below : runsTo (start [0xBB] |>.writeReg .a 0x02 |>.writeReg .e 0x05)
    fun t => t.flags = ⟨true, false, false, false, true⟩ := by decide

/-- V68 (R222). -/
theorem test_cmp_memory : runsTo (start [0xBE] |>.writeReg .a 0x80 |>.writeReg .h 0x20 |>.writeReg .l 0x00 |>.memWrite 0x2000 0x7F)
    fun t => t.flags = ⟨false, false, false, false, false⟩ := by decide

/-- V69 (R223). -/
theorem test_cpi : runsTo (start [0xFE, 0x40] |>.writeReg .a 0x4A)
    fun t => t.flags = ⟨false, false, true, true, false⟩ := by decide

/-- V70 (R223). -/
theorem test_cpi_borrows : runsTo (start [0xFE, 0xFF] |>.writeReg .a 0x00)
    fun t => t.flags = ⟨false, false, false, false, true⟩ := by decide

/-! ### Logical, rotate and carry: vectors of 95_test_vectors.md -/

/-- V72 (R241). -/
theorem test_ana_or_bit3 : runsTo (orBit3 (start [0xA1] |>.setFlags ⟨false, false, false, false, true⟩ |>.writeReg .a 0xFC |>.writeReg .c 0x0F))
    fun t => t.regs.a = 0x0C ∧ t.flags = ⟨false, false, true, true, false⟩ := by decide

/-- V74 (R242). -/
theorem test_ana_memory : runsTo (start [0xA6] |>.writeReg .a 0xF0 |>.writeReg .h 0x20 |>.writeReg .l 0x00 |>.memWrite 0x2000 0x0F)
    fun t => t.regs.a = 0x00 ∧ t.flags = ⟨false, true, false, true, false⟩ := by decide

/-- V76 (R243). -/
theorem test_ani : runsTo (start [0xE6, 0x0F] |>.writeReg .a 0x3A)
    fun t => t.regs.a = 0x0A ∧ t.flags = ⟨false, false, false, true, false⟩ := by decide

/-- V77 (R244). -/
theorem test_xra_same : runsTo (start [0xAF] |>.setFlags ⟨false, false, true, false, true⟩ |>.writeReg .a 0x5C)
    fun t => t.regs.a = 0x00 ∧ t.flags = ⟨false, true, false, true, false⟩ := by decide

/-- V78 (R245). -/
theorem test_xra_memory : runsTo (start [0xAE] |>.writeReg .a 0x55 |>.writeReg .h 0x20 |>.writeReg .l 0x00 |>.memWrite 0x2000 0xAA)
    fun t => t.regs.a = 0xFF ∧ t.flags = ⟨true, false, false, true, false⟩ := by decide

/-- V79 (R246). -/
theorem test_xri : runsTo (start [0xEE, 0x81] |>.writeReg .a 0x3B)
    fun t => t.regs.a = 0xBA ∧ t.flags = ⟨true, false, false, false, false⟩ := by decide

/-- V80 (R247). -/
theorem test_ora : runsTo (start [0xB1] |>.setFlags ⟨false, false, false, false, true⟩ |>.writeReg .a 0x33 |>.writeReg .c 0x0F)
    fun t => t.regs.a = 0x3F ∧ t.flags = ⟨false, false, false, true, false⟩ := by decide

/-- V81 (R248). -/
theorem test_ora_memory : runsTo (start [0xB6] |>.writeReg .a 0x00 |>.writeReg .h 0x20 |>.writeReg .l 0x00 |>.memWrite 0x2000 0x00)
    fun t => t.flags = ⟨false, true, false, true, false⟩ := by decide

/-- V82 (R249). -/
theorem test_ori : runsTo (start [0xF6, 0x80] |>.writeReg .a 0x01)
    fun t => t.regs.a = 0x81 ∧ t.flags = ⟨true, false, false, true, false⟩ := by decide

/-- V85 (R250). -/
theorem test_rlc_keeps_zero_flag : runsTo (start [0x07] |>.setFlags ⟨false, false, false, false, true⟩ |>.writeReg .a 0x00)
    fun t => t.flags = ⟨false, false, false, false, false⟩ := by decide

/-- V84 (R250). -/
theorem test_rlc : runsTo (start [0x07] |>.writeReg .a 0x80)
    fun t => t.regs.a = 0x01 ∧ t.flags = ⟨false, false, false, false, true⟩ := by decide

/-- V86 (R251). -/
theorem test_rrc : runsTo (start [0x0F] |>.writeReg .a 0xF2)
    fun t => t.regs.a = 0x79 ∧ t.flags = ⟨false, false, false, false, false⟩ := by decide

/-- V87 (R251). -/
theorem test_rrc_carries : runsTo (start [0x0F] |>.writeReg .a 0x01)
    fun t => t.regs.a = 0x80 ∧ t.flags = ⟨false, false, false, false, true⟩ := by decide

/-- V88 (R252). -/
theorem test_ral : runsTo (start [0x17] |>.writeReg .a 0xB5)
    fun t => t.regs.a = 0x6A ∧ t.flags = ⟨false, false, false, false, true⟩ := by decide

/-- V89 (R252). -/
theorem test_ral_enters_carry : runsTo (start [0x17] |>.setFlags ⟨false, false, false, false, true⟩ |>.writeReg .a 0x00)
    fun t => t.regs.a = 0x01 ∧ t.flags = ⟨false, false, false, false, false⟩ := by decide

/-- V90 (R253). -/
theorem test_rar : runsTo (start [0x1F] |>.setFlags ⟨false, false, false, false, true⟩ |>.writeReg .a 0x6A)
    fun t => t.regs.a = 0xB5 ∧ t.flags = ⟨false, false, false, false, false⟩ := by decide

/-- V91 (R253). -/
theorem test_rar_carries : runsTo (start [0x1F] |>.writeReg .a 0x01)
    fun t => t.regs.a = 0x00 ∧ t.flags = ⟨false, false, false, false, true⟩ := by decide

/-- V92 (R254). -/
theorem test_cma : runsTo (start [0x2F] |>.writeReg .a 0x51)
    fun t => t.regs.a = 0xAE ∧ t.flags = ⟨false, false, false, false, false⟩ := by decide

/-- V94 (R254). -/
theorem test_cma_doc_literal : runsTo (literalFlags (start [0x2F] |>.writeReg .a 0xFF))
    fun t => t.regs.a = 0x00 ∧ t.flags = ⟨false, true, false, true, false⟩ := by decide

/-- V95 (R255). -/
theorem test_cmc_clears : runsTo (start [0x3F] |>.setFlags ⟨false, false, false, false, true⟩)
    fun t => t.flags = ⟨false, false, false, false, false⟩ := by decide

/-- V96 (R255). -/
theorem test_cmc_sets : runsTo (start [0x3F]) fun t => t.flags = ⟨false, false, false, false, true⟩ := by decide

/-- V97 (R256). -/
theorem test_stc : runsTo (start [0x37]) fun t => t.flags = ⟨false, false, false, false, true⟩ := by decide

/-! ### Control flow: vectors of 95_test_vectors.md -/

/-- V98 (R271). -/
theorem test_jmp : runsTo (start [0xC3, 0x34, 0x12]) fun t => t.pc = 0x1234 := by decide

/-- V100 (R272). -/
theorem test_jnz_taken : runsTo (start [0xC2, 0x00, 0x30]) fun t => t.pc = 0x3000 := by decide

/-- V101 (R272). -/
theorem test_jnz_not_taken : runsTo (start [0xC2, 0x00, 0x30] |>.setFlags ⟨false, true, false, false, false⟩)
    fun t => t.pc = 0x0103 := by decide

/-- V102 (R272). -/
theorem test_jz : runsTo (start [0xCA, 0x00, 0x30] |>.setFlags ⟨false, true, false, false, false⟩)
    fun t => t.pc = 0x3000 := by decide

/-- V103 (R272). -/
theorem test_jnc_not_taken : runsTo (start [0xD2, 0x00, 0x30] |>.setFlags ⟨false, false, false, false, true⟩)
    fun t => t.pc = 0x0103 := by decide

/-- V104 (R272). -/
theorem test_jc : runsTo (start [0xDA, 0x00, 0x30] |>.setFlags ⟨false, false, false, false, true⟩)
    fun t => t.pc = 0x3000 := by decide

/-- V105 (R272). -/
theorem test_jpo : runsTo (start [0xE2, 0x00, 0x30]) fun t => t.pc = 0x3000 := by decide

/-- V106 (R272). -/
theorem test_jpe : runsTo (start [0xEA, 0x00, 0x30] |>.setFlags ⟨false, false, false, true, false⟩)
    fun t => t.pc = 0x3000 := by decide

/-- V107 (R272). -/
theorem test_jp_not_taken : runsTo (start [0xF2, 0x00, 0x30] |>.setFlags ⟨true, false, false, false, false⟩)
    fun t => t.pc = 0x0103 := by decide

/-- V108 (R272). -/
theorem test_jm : runsTo (start [0xFA, 0x00, 0x30] |>.setFlags ⟨true, false, false, false, false⟩)
    fun t => t.pc = 0x3000 := by decide

/-- V110 (R273). -/
theorem test_call_return_address_wraps : runsTo (startAt 0xFFFD [0xCD, 0x00, 0x30] |>.setSp 0x2400)
    fun t => t.sp = 0x23FE ∧ t.pc = 0x3000 ∧ t.memRead 0x23FE = 0x00 ∧ t.memRead 0x23FF = 0x00 := by decide

/-- V111 (R273). -/
theorem test_call_stack_wraps : runsTo (start [0xCD, 0x00, 0x30] |>.setSp 0x0001)
    fun t => t.sp = 0xFFFF ∧ t.pc = 0x3000 ∧ t.memRead 0x0000 = 0x01 ∧ t.memRead 0xFFFF = 0x03 := by decide

/-- V112 (R274). -/
theorem test_cnc_not_taken : runsTo (start [0xD4, 0x00, 0x30] |>.setFlags ⟨false, false, false, false, true⟩ |>.setSp 0x2400)
    fun t => t.pc = 0x0103 := by decide

/-- V113 (R274). -/
theorem test_cm_taken : runsTo (start [0xFC, 0x00, 0x30] |>.setFlags ⟨true, false, false, false, false⟩ |>.setSp 0x2400)
    fun t => t.sp = 0x23FE ∧ t.pc = 0x3000 ∧ t.memRead 0x23FE = 0x03 ∧ t.memRead 0x23FF = 0x01 := by decide

/-- V114 (R274). -/
theorem test_cnz_taken : runsTo (start [0xC4, 0x00, 0x30] |>.setSp 0x2400)
    fun t => t.sp = 0x23FE ∧ t.pc = 0x3000 ∧ t.memRead 0x23FE = 0x03 ∧ t.memRead 0x23FF = 0x01 := by decide

/-- V115 (R275). -/
theorem test_ret : runsTo (start [0xC9] |>.setSp 0x23FE |>.memWrite 0x23FE 0x03 |>.memWrite 0x23FF 0x01)
    fun t => t.sp = 0x2400 ∧ t.pc = 0x0103 := by decide

/-- V116 (R275). -/
theorem test_ret_wraps : runsTo (start [0xC9] |>.setSp 0xFFFF |>.memWrite 0xFFFF 0x34 |>.memWrite 0x0000 0x12)
    fun t => t.sp = 0x0001 ∧ t.pc = 0x1234 := by decide

/-- V117 (R276). -/
theorem test_rz_not_taken : runsTo (startAt 0x3000 [0xC8] |>.setSp 0x23FE |>.memWrite 0x23FE 0x03 |>.memWrite 0x23FF 0x01)
    fun t => t.pc = 0x3001 := by decide

/-- V118 (R276). -/
theorem test_rc_taken : runsTo (start [0xD8] |>.setFlags ⟨false, false, false, false, true⟩ |>.setSp 0x23FE |>.memWrite 0x23FE 0x03 |>.memWrite 0x23FF 0x01)
    fun t => t.sp = 0x2400 ∧ t.pc = 0x0103 := by decide

/-- V119 (R276). -/
theorem test_rpo_taken : runsTo (start [0xE0] |>.setSp 0x23FE |>.memWrite 0x23FE 0x03 |>.memWrite 0x23FF 0x01)
    fun t => t.sp = 0x2400 ∧ t.pc = 0x0103 := by decide

/-- V120 (R277). -/
theorem test_rst_seven : runsTo (startAt 0x0150 [0xFF] |>.setSp 0x2400)
    fun t => t.sp = 0x23FE ∧ t.pc = 0x0038 ∧ t.memRead 0x23FE = 0x51 ∧ t.memRead 0x23FF = 0x01 := by decide

/-- V121 (R277). -/
theorem test_rst_zero_wraps : runsTo (startAt 0x0150 [0xC7] |>.setSp 0x0000)
    fun t => t.sp = 0xFFFE ∧ t.pc = 0x0000 ∧ t.memRead 0xFFFE = 0x51 ∧ t.memRead 0xFFFF = 0x01 := by decide

/-- V123 (R278). -/
theorem test_pchl : runsTo (start [0xE9] |>.writeReg .h 0x12 |>.writeReg .l 0x34) fun t => t.pc = 0x1234 := by decide

/-- R274, by hand: CZ, CC, CPO, CPE and CP, each with its condition met. -/
theorem test_conditional_calls :
    runsTo (start [0xCC, 0x00, 0x30] |>.setFlags ⟨false, true, false, false, false⟩) (fun t => t.pc = 0x3000) ∧
    runsTo (start [0xDC, 0x00, 0x30] |>.setFlags ⟨false, false, false, false, true⟩) (fun t => t.pc = 0x3000) ∧
    runsTo (start [0xE4, 0x00, 0x30]) (fun t => t.pc = 0x3000) ∧
    runsTo (start [0xEC, 0x00, 0x30] |>.setFlags ⟨false, false, false, true, false⟩) (fun t => t.pc = 0x3000) ∧
    runsTo (start [0xF4, 0x00, 0x30]) (fun t => t.pc = 0x3000) := by
  decide

/-- R274, by hand: the same with the condition not met. -/
theorem test_conditional_calls_not_taken :
    runsTo (start [0xCC, 0x00, 0x30]) (fun t => t.pc = 0x0103) ∧
    runsTo (start [0xDC, 0x00, 0x30]) (fun t => t.pc = 0x0103) ∧
    runsTo (start [0xE4, 0x00, 0x30] |>.setFlags ⟨false, false, false, true, false⟩) (fun t => t.pc = 0x0103) ∧
    runsTo (start [0xEC, 0x00, 0x30]) (fun t => t.pc = 0x0103) ∧
    runsTo (start [0xF4, 0x00, 0x30] |>.setFlags ⟨true, false, false, false, false⟩) (fun t => t.pc = 0x0103) := by
  decide

/-- R276, by hand: RNZ, RNC, RPE, RP and RM, each with its condition met, popping the zero word at 0x2400. -/
theorem test_conditional_returns :
    runsTo (start [0xC0] |>.setSp 0x2400) (fun t => t.sp = 0x2402 ∧ t.pc = 0x0000) ∧
    runsTo (start [0xD0] |>.setSp 0x2400) (fun t => t.sp = 0x2402 ∧ t.pc = 0x0000) ∧
    runsTo (start [0xE8] |>.setSp 0x2400 |>.setFlags ⟨false, false, false, true, false⟩) (fun t => t.sp = 0x2402) ∧
    runsTo (start [0xF0] |>.setSp 0x2400) (fun t => t.sp = 0x2402) ∧
    runsTo (start [0xF8] |>.setSp 0x2400 |>.setFlags ⟨true, false, false, false, false⟩) (fun t => t.sp = 0x2402) := by
  decide

/-- R276, by hand: the same with the condition not met. -/
theorem test_conditional_returns_not_taken :
    runsTo (start [0xC0] |>.setFlags ⟨false, true, false, false, false⟩) (fun t => t.pc = 0x0101 ∧ t.sp = 0x0000) ∧
    runsTo (start [0xD0] |>.setFlags ⟨false, false, false, false, true⟩) (fun t => t.pc = 0x0101 ∧ t.sp = 0x0000) ∧
    runsTo (start [0xE8]) (fun t => t.pc = 0x0101 ∧ t.sp = 0x0000) ∧
    runsTo (start [0xF0] |>.setFlags ⟨true, false, false, false, false⟩) (fun t => t.pc = 0x0101 ∧ t.sp = 0x0000) ∧
    runsTo (start [0xF8]) (fun t => t.pc = 0x0101 ∧ t.sp = 0x0000) := by
  decide

/-! ### Stack: vectors of 95_test_vectors.md -/

/-- V125 (R301). -/
theorem test_push_wraps : runsTo (start [0xD5] |>.writeReg .d 0xAB |>.writeReg .e 0xCD |>.setSp 0x0000)
    fun t => t.sp = 0xFFFE ∧ t.pc = 0x0101 ∧ t.memRead 0xFFFE = 0xCD ∧ t.memRead 0xFFFF = 0xAB := by decide

/-- V127 (R302). -/
theorem test_push_psw : runsTo (start [0xF5] |>.setFlags ⟨true, false, true, true, true⟩ |>.writeReg .a 0x1F |>.setSp 0x2400)
    fun t => t.sp = 0x23FE ∧ t.pc = 0x0101 ∧ t.memRead 0x23FE = 0x97 ∧ t.memRead 0x23FF = 0x1F := by decide

/-- V131 (R303). -/
theorem test_pop_wraps : runsTo (start [0xC1] |>.setSp 0xFFFF |>.memWrite 0xFFFF 0x34 |>.memWrite 0x0000 0x12)
    fun t => t.regs.b = 0x12 ∧ t.regs.c = 0x34 ∧ t.sp = 0x0001 ∧ t.pc = 0x0101 := by decide

/-- V132 (R304). -/
theorem test_pop_psw : runsTo (start [0xF1] |>.setSp 0x23FE |>.memWrite 0x23FE 0xFF |>.memWrite 0x23FF 0x42)
    fun t => t.regs.a = 0x42 ∧ t.sp = 0x2400 ∧ t.pc = 0x0101 ∧ t.flags = ⟨true, true, true, true, true⟩ := by decide

/-- V135 (R305). -/
theorem test_xthl : runsTo (start [0xE3] |>.writeReg .h 0x0B |>.writeReg .l 0x3C |>.setSp 0x23FE |>.memWrite 0x23FE 0xF0 |>.memWrite 0x23FF 0x0D)
    fun t => t.regs.h = 0x0D ∧ t.regs.l = 0xF0 ∧ t.pc = 0x0101 ∧ t.memRead 0x23FE = 0x3C ∧
      t.memRead 0x23FF = 0x0B := by decide

/-- V136 (R305). -/
theorem test_xthl_wraps : runsTo (start [0xE3] |>.writeReg .h 0x0B |>.writeReg .l 0x3C |>.setSp 0xFFFF |>.memWrite 0xFFFF 0xF0 |>.memWrite 0x0000 0x0D)
    fun t => t.regs.h = 0x0D ∧ t.regs.l = 0xF0 ∧ t.pc = 0x0101 ∧ t.memRead 0x0000 = 0x0B ∧
      t.memRead 0xFFFF = 0x3C := by decide

/-- V137 (R306). -/
theorem test_sphl : runsTo (start [0xF9] |>.writeReg .h 0x50 |>.writeReg .l 0x6C)
    fun t => t.sp = 0x506C ∧ t.pc = 0x0101 := by decide

/-! ### I/O, machine control, undefined opcodes, memory capacity: vectors of 95_test_vectors.md -/

/-- V138 (R321). -/
theorem test_in_handler : runsTo (handledBy [0xA5] (start [0xDB, 0x01]))
    fun t => t.regs.a = 0xA5 ∧ t.pc = 0x0102 ∧ t.portLog = [.read 0x01] := by decide

/-- V140 (R322). -/
theorem test_out_handler : runsTo (handledBy [0xA5] (start [0xD3, 0x03] |>.writeReg .a 0x77))
    fun t => t.pc = 0x0102 ∧ t.portLog = [.write 0x03 0x77] := by decide

/-- V141 (R322). -/
theorem test_out_no_handler : runsTo (start [0xD3, 0x03] |>.writeReg .a 0x77)
    fun t => t.pc = 0x0102 ∧ t.portLog = [] := by decide

/-- V142 (R323). -/
theorem test_ei : runsTo (start [0xFB]) fun t => t.pc = 0x0101 ∧ t.inte = true := by decide

/-- V143 (R324). -/
theorem test_di : runsTo (start [0xF3] |>.setInte true) fun t => t.pc = 0x0101 ∧ t.inte = false := by decide

/-- V144 (R325). -/
theorem test_hlt : runsTo (start [0x76]) fun t => t.pc = 0x0101 ∧ t.run = .halted := by decide

/-- V145 (R326). -/
theorem test_nop : runsTo (start [0x00]) fun t => t.pc = 0x0101 := by decide

/-- V146 (R327). -/
theorem test_undefined_nop : runsTo (start [0x08]) fun t => t.pc = 0x0101 := by decide

/-- V148 (R327). -/
theorem test_undefined_jmp_slot_nop : runsTo (start [0xCB, 0x34, 0x12]) fun t => t.pc = 0x0101 := by decide

/-- V149 (R327). -/
theorem test_undefined_jmp : runsTo (underAlias (start [0xCB, 0x34, 0x12])) fun t => t.pc = 0x1234 := by decide

/-- V151 (R327). -/
theorem test_undefined_ret : runsTo (underAlias (start [0xD9] |>.setSp 0x23FE |>.memWrite 0x23FE 0x03 |>.memWrite 0x23FF 0x01))
    fun t => t.sp = 0x2400 ∧ t.pc = 0x0103 := by decide

/-- V152 (R327). -/
theorem test_undefined_call : runsTo (underAlias (start [0xDD, 0x00, 0x30] |>.setSp 0x2400))
    fun t => t.sp = 0x23FE ∧ t.pc = 0x3000 ∧ t.memRead 0x23FE = 0x03 ∧ t.memRead 0x23FF = 0x01 := by decide

/-- V156 (R51). -/
theorem test_memory_capacity : runsTo (withMemory 16384 (start [0x32, 0x05, 0x40] |>.writeReg .a 0x55))
    fun t => t.memRead 0x0005 = 0x55 := by decide

/-! ### Faults, the start of a run, the disassembler -/

/-- FF1: a three-byte opcode with one operand byte. -/
theorem test_fault_operand_outside_image :
    runsTo (inImage 2 (startAt 0x0000 [0xC3, 0x34])) fun t =>
      t.run = .faulted .incompleteInstruction ∧ t.pc = 0x0000 := by
  decide

/-- FF4: an empty image, which is the state after reset. -/
theorem test_fault_opcode_outside_image :
    runsTo State.reset fun t => t = { State.reset with run := .faulted .incompleteInstruction } := by
  decide

/-- FF6: an image that wraps past the top of the address space. -/
theorem test_image_wraps :
    runsTo (inImage 3 (startAt 0xFFFE [0xC3, 0x34, 0x12])) fun t => t.run = .running ∧ t.pc = 0x1234 := by
  decide

/-- R127: no step after HLT. -/
theorem test_halted_stops : step (State.reset.setRun .halted) = .fault .stepInHalted := rfl

/-- R381, R62: an image at BASE, its later byte kept where two share an index. -/
theorem test_start_of_run_one_byte_memory :
    startOfRun { memSize := 1, base := 0x0005 } { regs := State.reset.regs, flags := State.reset.flags, sp := 0, cells := [] }
      [0x41] = .next { State.reset with
        pc := 0x0005, mem := [(0, 0x41)], params := { memSize := 1, base := 0x0005, imageLen := 1 } } := by
  rfl

/-- R7: a memory of no bytes starts no run. -/
theorem test_start_of_run_refuses_empty_memory :
    startOfRun { memSize := 0 } { regs := State.reset.regs, flags := State.reset.flags, sp := 0, cells := [] } [] =
      .refused .memSizeOutOfRange :=
  rfl

/-- DV2: a listing and its trailing report. -/
theorem test_disassembler_trailing_bytes :
    disassemble .nop 0x0000 [0x3E, 0x01, 0xC3, 0x00] 0 =
      ([{ address := 0x0000, text := "MVI A,$01", bytes := [0x3E, 0x01] }],
        some { address := 0x0002, bytes := [0xC3, 0x00], reason := .incompleteInstruction }) := by
  decide

/-- DV7: an undefined opcode under `alias`. -/
theorem test_disassembler_alias_spelling :
    disassemble .aliased 0x0000 [0x08, 0xCB, 0x00, 0x76] 0 =
      ([{ address := 0x0000, text := "*NOP", bytes := [0x08] },
        { address := 0x0001, text := "*JMP $7600", bytes := [0xCB, 0x00, 0x76] }], none) := by
  decide

/-- R102: the length of the fixture stream under each policy. -/
theorem test_fixture_lengths :
    (fixtureStream .nop).length = 326 ∧ (fixtureStream .aliased).length = 334 := by
  decide +kernel

/-! ### Witnesses: states and operands that meet the hypotheses of the statements -/

/-- Canonical memory with a byte stored: the hypothesis of the statements about a store and of those over all
instructions (MovCopiesOneByte, MviPutsTheImmediate, StaAndStaxStoreTheAccumulator, ShldStoresLThenH,
InrAndDcrStepTheOperand, InverseInstructionsRestoreTheOperand, CallsPushTheReturnAddress, PushStoresTheWord,
XthlExchangesAndSphlCopies, ByteReadAfterByteWrite, WordAccessesAreLittleEndian,
EveryInstructionCompletesWithinItsFrame, UndefinedOpcodesFollowThePolicy). -/
theorem witness_canonical_memory : Memory.wf (start [0x77, 0x00, 0x41]).mem = true := by decide

theorem witness_MovCopiesOneByte :
    Memory.wf (start [0x77]).mem = true ∧ exec (.movMR .a) (start [0x77]) = .next ((start [0x77]).memWrite 0 0) :=
  ⟨by decide, rfl⟩

theorem witness_MviPutsTheImmediate : Memory.wf (start [0x36, 0x99]).mem = true := by decide

theorem witness_StaAndStaxStoreTheAccumulator : Memory.wf (start [0x32, 0x01, 0x20]).mem = true := by decide

theorem witness_ShldStoresLThenH : Memory.wf (start [0x22, 0xFF, 0xFF]).mem = true := by decide

theorem witness_InverseInstructionsRestoreTheOperand :
    Memory.wf (start [0x34, 0x35]).mem = true ∧ Reg.b ≠ Reg.a := by decide

theorem witness_CallsPushTheReturnAddress :
    Memory.wf (start [0xCD]).mem = true ∧ (start [0xCD]).flags.z = false ∧ (start [0xCD]).flags.s = false := by decide

theorem witness_PushStoresTheWord : Memory.wf (start [0xC5]).mem = true := by decide

theorem witness_XthlExchangesAndSphlCopies : Memory.wf (start [0xE3]).mem = true := by decide

theorem witness_EveryInstructionCompletesWithinItsFrame : Memory.wf (start [0x22, 0x05, 0x01]).mem = true := by decide

/-- Both clauses of the read after the write, at addresses of one index (0x4005 and 0x0005 with 16384 bytes). -/
theorem witness_ByteReadAfterByteWrite :
    Memory.wf (withMemory 16384 (start [0x32])).mem = true ∧
    (0x4005 : Word).toNat % (withMemory 16384 (start [0x32])).params.memSize =
      (0x0005 : Word).toNat % (withMemory 16384 (start [0x32])).params.memSize := by
  decide

/-- Bytes of a word at the wrap, with indexes of their own. -/
theorem witness_WordAccessesAreLittleEndian :
    Memory.wf (start [0x22]).mem = true ∧ (start [0x22]).phys (0xFFFF + 1) ≠ (start [0x22]).phys 0xFFFF := by
  decide

/-- Pushed bytes at the wrap, with indexes of their own, and in a memory of two bytes. -/
theorem witness_PopGivesBackThePushedWord :
    Memory.wf (start [0xC5] |>.setSp 0x0001).mem = true ∧
    (start [0xC5] |>.setSp 0x0001).phys (0x0001 - 1) ≠ (start [0xC5] |>.setSp 0x0001).phys (0x0001 - 2) ∧
    (withMemory 2 State.reset).phys (0x0001 - 1) ≠ (withMemory 2 State.reset).phys (0x0003 - 2) := by
  decide

theorem witness_ReturnAfterCallComesBack :
    Memory.wf (start [0xCD] |>.setSp 0x2400).mem = true ∧
    (start [0xCD]).phys (0x2400 - 1) ≠ (start [0xCD]).phys (0x2400 - 2) := by
  decide

theorem witness_PushThenPopRestores :
    Memory.wf (start [0xC5, 0xC1] |>.setSp 0x0000).mem = true ∧
    (start [0xC5, 0xC1]).phys (0x0000 - 1) ≠ (start [0xC5, 0xC1]).phys (0x0000 - 2) ∧ StackPair.de ≠ StackPair.psw := by
  decide

theorem witness_DecodeOfEncodeIsTheInstruction :
    Instr.wf .aliased (.starCall .xFD 0xFFFF) = true ∧ Instr.wf .nop (.starNop .xCB) = true ∧
    Instr.wf .nop (.rst 7) = true := by
  decide

theorem witness_EncodeOfDecodeIsTheStream :
    decode .aliased [0xCB, 0x34, 0x12, 0x77] = .ok (.starJmp 0x1234, [0x77]) := by decide

/-- Both clauses, at the last byte a three-byte instruction can end on and one byte before it. -/
theorem witness_DecodeFailsExactlyWhenTheStreamIsShort :
    [0x00#8, 0xC3, 0x34].drop 1 = 0xC3 :: [0x34] ∧ [0x00#8, 0xC3, 0x34].length < 1 + lengthOf .nop 0xC3 ∧
    [0x00#8, 0xC3, 0x34, 0x12].drop 1 = 0xC3 :: [0x34, 0x12] ∧
    1 + lengthOf .nop 0xC3 ≤ [0x00#8, 0xC3, 0x34, 0x12].length := by
  decide

theorem witness_UndefinedOpcodesFollowThePolicy :
    UndefOp.x38 ∈ [UndefOp.x08, .x10, .x18, .x20, .x28, .x30, .x38] ∧ UndefOp.xFD ∈ [UndefOp.xDD, .xED, .xFD] ∧
    Memory.wf (start [0xFD]).mem = true := by
  decide

theorem witness_StepRunsTheDecodedInstruction :
    (start [0xC3, 0x34, 0x12]).run = .running ∧
    decode (start [0xC3, 0x34, 0x12]).params.undefPolicy (start [0xC3, 0x34, 0x12]).fetchBytes =
      .ok (.jmp 0x1234, []) := by
  decide

/-- The first clause, with the last byte of the instruction the last of the window, and the second at that byte and at the
opcode. -/
theorem witness_FetchWindowDecidesTheStep :
    (inImage 3 (startAt 0xFFFE [0xC3, 0x34, 0x12])).run = .running ∧
    (∀ k : Nat, k < 3 → (inImage 3 (startAt 0xFFFE [0xC3, 0x34, 0x12])).inWindow (0xFFFE + BitVec.ofNat 16 k) = true) ∧
    (inImage 2 (startAt 0xFFFE [0xC3, 0x34, 0x12])).inWindow (0xFFFE + BitVec.ofNat 16 2) = false ∧
    (inImage 0 (startAt 0xFFFE [0xC3])).inWindow (0xFFFE + BitVec.ofNat 16 0) = false := by
  decide

/-- Whether the hypotheses of FaultsAtFetchOnly hold of an instruction and a state. -/
def standsAtPc (i : Instr) (s : State) : Bool :=
  s.run == .running && i.wf s.params.undefPolicy &&
    (List.range i.length).all fun k => (encode i)[k]? == some (s.memRead (s.pc + BitVec.ofNat 16 k))

/-- An instruction of every length and every immediate form that the statements name. -/
def immediateForms : List Instr :=
  [.mvi .m 0x99, .lxi .sp 0x1234, .lda 0x1234, .sta 0x1234, .lhld 0x1234, .shld 0x1234, .adi 1, .aci 1, .sui 1, .sbi 1,
    .cpi 1, .ani 1, .xri 1, .ori 1, .inp 1, .out 1, .starNop .xCB, .starNop .x08] ++
  [.jmp 0x1234, .jnz 0x1234, .jz 0x1234, .jnc 0x1234, .jc 0x1234, .jpo 0x1234, .jpe 0x1234, .jp 0x1234, .jm 0x1234] ++
  [.call 0x1234, .cnz 0x1234, .cz 0x1234, .cnc 0x1234, .cc 0x1234, .cpo 0x1234, .cpe 0x1234, .cp 0x1234, .cm 0x1234]

theorem witness_EveryInstructionFaultsAtFetchOnly :
    (immediateForms.all fun i => standsAtPc i (start (encode i))) = true := by
  decide +kernel

theorem witness_FaultsAtFetchOnly_under_alias :
    ([Instr.starJmp 0x1234, .starRet, .starCall .xDD 0x1234].all fun i => standsAtPc i (underAlias (start (encode i)))) =
      true := by
  decide

theorem witness_MemoryWindowNeverFaults :
    (startAt 0xFFFF [0xC3]).run = .running ∧ (startAt 0xFFFF [0xC3]).params.fetchWindow = .memory := by decide

theorem witness_HaltedAndFaultedAreTerminal :
    (State.reset.setRun .halted).run = .halted ∧
    (State.reset.raise .incompleteInstruction).run = .faulted .incompleteInstruction := by
  decide

/-- A step to each of the three run states. -/
theorem witness_RunStateTransitions :
    runsTo (start [0x00]) (fun t => t.run = .running) ∧ runsTo (start [0x76]) (fun t => t.run = .halted) ∧
    runsTo State.reset (fun t => t.run = .faulted .incompleteInstruction) := by
  decide

/-- A three-byte instruction at the wrap of the address space. -/
theorem witness_StoredInstructionRunsNext :
    Inv (startAt 0xFFFE [0x00]) ∧ (startAt 0xFFFE [0x00]).run = .running ∧
    Instr.wf (startAt 0xFFFE [0x00]).params.undefPolicy (.jmp 0x1234) = true ∧
    (∀ k : Nat, k < 3 → (startAt 0xFFFE [0x00]).inWindow (0xFFFE + BitVec.ofNat 16 k) = true) ∧
    ∀ k : Nat, k < 3 → ∀ j : Nat, j < k →
      (startAt 0xFFFE [0x00]).phys (0xFFFE + BitVec.ofNat 16 j) ≠ (startAt 0xFFFE [0x00]).phys (0xFFFE + BitVec.ofNat 16 k) := by
  decide

theorem witness_StepKeepsTheParameters : step (start [0x00]) = .next ((start [0x00]).setPc 0x0101) := rfl

theorem witness_StepKeepsTheInvariant :
    Inv (start [0x77] |>.writeReg .a 0x3C) ∧ runsTo (start [0x77] |>.writeReg .a 0x3C) fun t => t.memRead 0 = 0x3C := by
  decide

/-- Both ends of the range of MEM_SIZE, with an image that fills one byte, and one whose two bytes share no index. -/
theorem witness_StartOfRunState :
    (1 ≤ 1 ∧ 1 ≤ 65536 ∧ [0x41#8].length ≤ 1) ∧ (1 ≤ 65536 ∧ 65536 ≤ 65536 ∧ [0x41#8, 0x42].length ≤ 65536) ∧
    (withMemory 2 State.reset).phys (0x0000 + BitVec.ofNat 16 1) ≠
      (withMemory 2 State.reset).phys (0x0000 + BitVec.ofNat 16 0) := by
  decide

theorem witness_OversizedImageIsRefused : 1 ≤ 1 ∧ 1 ≤ 65536 ∧ 1 < [0x41#8, 0x42].length := by decide

/-- EI, DI and an instruction that is neither. -/
theorem witness_InteIsNeverRead :
    runsTo (start [0xFB]) (fun t => t.inte = true) ∧ runsTo (start [0xF3] |>.setInte true) (fun t => t.inte = false) ∧
    runsTo (start [0x00] |>.setInte true) (fun t => t.inte = true) := by
  decide

/-- IN, OUT and an instruction that is neither, with a handler. -/
theorem witness_OnlyInAndOutReachThePorts :
    runsTo (handledBy [] (start [0xDB, 0x01])) (fun t => t.portLog = [.read 0x01]) ∧
    runsTo (handledBy [] (start [0xD3, 0x01])) (fun t => t.portLog = [.write 0x01 0x00]) ∧
    runsTo (handledBy [] (start [0x00])) (fun t => t.portLog = []) := by
  decide

/-- Both flag profiles. -/
theorem witness_InrAndDcrStepTheOperand :
    Memory.wf (start [0x34]).mem = true ∧ (start [0x34]).params.flagProfile = .canonical ∧
    (literalFlags (start [0x34])).params.flagProfile = .docLiteral := by
  decide

theorem witness_InxAndDcxStepThePair :
    (start [0x33]).params.flagProfile = .canonical ∧ (literalFlags (start [0x33])).params.flagProfile = .docLiteral := by
  decide

theorem witness_DadAddsToHl :
    (start [0x39]).params.flagProfile = .canonical ∧ (literalFlags (start [0x39])).params.flagProfile = .docLiteral := by
  decide

theorem witness_ComplementAndCarryControl :
    (start [0x2F]).params.flagProfile = .canonical ∧ (literalFlags (start [0x2F])).params.flagProfile = .docLiteral := by
  decide

/-- The largest operands and the smallest. -/
theorem witness_DecimalAdditionThroughDaa :
    99 < 100 ∧ (start [0xCE] |>.writeReg .a 0x99).regs.a = bcd 99 ∧ 0 < 100 ∧ (start [0xCE]).regs.a = bcd 0 := by
  decide

/-- No handler, a handler that names its answer and one that does not. -/
theorem witness_InAndOutUseThePort :
    (start [0xDB]).params.portHandler = .absent ∧ (handledBy [0xA5] (start [0xDB])).params.portHandler = .present [0xA5] ∧
    (handledBy [] (start [0xDB])).params.portHandler ≠ .absent := by
  decide

/-- A record and a report. -/
theorem witness_DisassemblyCoversTheStream :
    (disassemble .nop 0x0000 [0x00, 0xC3] 0).1[0]? = some { address := 0x0000, text := "NOP", bytes := [0x00] } ∧
    (disassemble .nop 0x0000 [0x00, 0xC3] 0).2 =
      some { address := 0x0001, bytes := [0xC3], reason := .incompleteInstruction } := by
  decide

/-- A running state whose instruction is each of the four. -/
theorem witness_EiDiHltAndNop :
    (start [0xFB]).run = .running ∧ (start [0xFB]).fetch = .ok .ei ∧
    (start [0xF3]).run = .running ∧ (start [0xF3]).fetch = .ok .di ∧
    (start [0x76]).run = .running ∧ (start [0x76]).fetch = .ok .hlt ∧
    (start [0x00]).run = .running ∧ (start [0x00]).fetch = .ok .nop := by
  decide

end Sys2Proof.Tests
end

section
/-! PROOFS. What each instruction may change (10_state.md R33, 41_alu_flags.md R158, 20_memory.md R59): frames built one
update at a time, then for the operations that instructions share. -/

namespace Sys2Proof.Machine

/-! ### Frames, one update after another -/

section Frames

variable {w : May} {s t : State}

/-- Flags are read from the flags of the state alone. -/
theorem State.flag_congr (h : t.flags = s.flags) (k : Flag) : t.flag k = s.flag k := by
  cases k <;> simp [State.flag, h]

theorem Flag.mem_all (k : Flag) : k ∈ Flag.all := by cases k <;> decide

/-- A flag other than CY keeps its value where CY alone is written. -/
theorem State.flag_setFlags_cy (s : State) (c : Bool) {k : Flag} (hk : k ∉ [Flag.cy]) :
    (s.setFlags { s.flags with cy := c }).flag k = s.flag k := by
  cases k with
  | cy => simp at hk
  | s | z | ac | p => rfl

/-- R141: a flag other than S, Z and P keeps its value where those three are computed from a result. -/
theorem State.flag_setFlags_szp (s : State) (res : Byte) {k : Flag} (hk : k ∉ [Flag.s, .z, .p]) :
    (s.setFlags (szp s.flags res)).flag k = s.flag k := by
  cases k with
  | s | z | p => simp at hk
  | ac | cy => rfl

/-- An update of the single cells: registers, flags, memory and parameters are as they were. -/
theorem Frame.of_cells (hr : t.regs = s.regs) (hf : t.flags = s.flags) (hm : t.mem = s.mem) (hp : t.params = s.params)
    (hc : (w.sp = false → t.sp = s.sp) ∧ (w.pc = false → t.pc = s.pc) ∧ (w.inte = false → t.inte = s.inte) ∧
      (w.run = false → t.run = s.run) ∧ (w.ports = false → t.portLog = s.portLog) ∧
      (w.draws = false → t.drawCount = s.drawCount)) : Frame w s t := by
  obtain ⟨hsp, hpc, hinte, hrun, hports, hdraws⟩ := hc
  exact Frame.of_parts (fun r _ => State.readReg_congr hr r) (fun k _ => State.flag_congr hf k)
    ⟨hsp, hpc, hinte, hrun, hports, hdraws, hp⟩ (fun a _ => State.memRead_congr hm hp a)

/-- Nothing changed, whatever may. -/
theorem Frame.refl (w : May) (s : State) : Frame w s s := Frame.of_cells rfl rfl rfl rfl (by simp)

theorem Frame.setSp (hsp : w.sp = true) (s : State) (v : Word) : Frame w s (s.setSp v) :=
  Frame.of_cells rfl rfl rfl rfl (by simp [hsp])

/-- R64: the port log grows only where a handler is present. -/
theorem Frame.callPort (hw : w.ports = May.logs s) (e : PortEvent) : Frame w s (s.callPort e) := by
  obtain ⟨-, he⟩ | ⟨hp, he⟩ := s.callPort_cases e <;> rw [he]
  · exact Frame.refl w s
  · exact Frame.of_cells rfl rfl rfl rfl (by simp [hw, May.logs, hp])

/-- A listed register written. -/
theorem Frame.then_writeReg (h : Frame w s t) {r : Reg} (hr : r ∈ w.regs) (v : Byte) : Frame w s (t.writeReg r v) := by
  obtain ⟨hregs, hrest⟩ := h
  refine ⟨fun r' hr' => ?_, hrest⟩
  have hne : r' ≠ r := fun e => hr' (e ▸ hr)
  rw [State.readReg_writeReg, if_neg hne, hregs r' hr']

/-- Flags written, those that are not listed with the values they had. -/
theorem Frame.then_setFlags (h : Frame w s t) {f : Flags} (hf : ∀ k, k ∉ w.flags → (t.setFlags f).flag k = t.flag k) :
    Frame w s (t.setFlags f) := by
  obtain ⟨hregs, hflags, hrest⟩ := h
  exact ⟨hregs, fun k hk => (hf k hk).trans (hflags k hk), hrest⟩

/-- R157: four flags drawn and CY written, where all five are listed. -/
theorem Frame.then_drawFlags (h : Frame w s t) (hf : w.flags = Flag.all) (hd : w.draws = true) (cy : Bool) :
    Frame w s (t.drawFlags cy) := by
  obtain ⟨hregs, -, hsp, hpc, hinte, hrun, hports, -, hp, hm⟩ := h
  exact ⟨hregs, fun k hk => absurd (hf ▸ k.mem_all) hk, hsp, hpc, hinte, hrun, hports, by simp [hd], hp, hm⟩

/-- R53: a byte written at a listed address. -/
theorem Frame.then_memWrite (h : Frame w s t) (hwf : Memory.wf t.mem = true) {a : Word} (ha : a ∈ w.stored) (v : Byte) :
    Frame w s (t.memWrite a v) := by
  obtain ⟨hregs, hflags, hsp, hpc, hinte, hrun, hports, hdraws, hp, hm⟩ := h
  refine ⟨hregs, hflags, hsp, hpc, hinte, hrun, hports, hdraws, hp, fun b hb => ?_⟩
  have hne : t.phys b ≠ t.phys a := by
    rw [State.phys_congr hp, State.phys_congr hp]
    exact hb a ha
  rw [State.memRead_memWrite hwf, if_neg hne, hm b hb]

/-! R23: a pair written, both its registers listed. -/

theorem Frame.then_setBc (h : Frame w s t) (hb : .b ∈ w.regs) (hc : .c ∈ w.regs) (v : Word) : Frame w s (t.setBc v) :=
  (h.then_writeReg hb _).then_writeReg hc _

theorem Frame.then_setDe (h : Frame w s t) (hd : .d ∈ w.regs) (he : .e ∈ w.regs) (v : Word) : Frame w s (t.setDe v) :=
  (h.then_writeReg hd _).then_writeReg he _

theorem Frame.then_setHl (h : Frame w s t) (hh : .h ∈ w.regs) (hl : .l ∈ w.regs) (v : Word) : Frame w s (t.setHl v) :=
  (h.then_writeReg hh _).then_writeReg hl _

/-! ### Frames of the shared operations -/

/-- A result in A. -/
theorem Frame.setAcc {fs : List Flag} (r : Byte × Flags) (hf : ∀ k, k ∉ fs → (s.setFlags r.2).flag k = s.flag k) :
    Frame (May.acc fs) s (s.setAcc r) :=
  ((Frame.refl _ s).then_writeReg (List.mem_singleton_self Reg.a) r.1).then_setFlags hf

/-- A result in A with all five flags. -/
theorem Frame.setAcc_all (s : State) (r : Byte × Flags) : Frame (May.acc Flag.all) s (s.setAcc r) :=
  Frame.setAcc r fun k hk => absurd k.mem_all hk

/-- R84: an 8-bit operand written. -/
theorem Frame.writeRM (hwf : Memory.wf s.mem = true) (x : RegM) (v : Byte) (fs : List Flag) :
    Frame (May.rm s x fs) s (s.writeRM x v) := by
  cases x with
  | reg r => exact (Frame.refl _ s).then_writeReg (List.mem_singleton_self r) v
  | m => exact (Frame.refl _ s).then_memWrite hwf (List.mem_singleton_self s.hl) v

theorem May.rm_flags (s : State) (x : RegM) (fs : List Flag) : (May.rm s x fs).flags = fs := by cases x <;> rfl

/-- R84: a result in an 8-bit operand. -/
theorem Frame.setRM (hwf : Memory.wf s.mem = true) (x : RegM) (r : Byte × Flags) {fs : List Flag}
    (hf : ∀ k, k ∉ fs → (s.setFlags r.2).flag k = s.flag k) : Frame (May.rm s x fs) s (s.setRM x r) := by
  refine (Frame.writeRM hwf x r.1 fs).then_setFlags fun k hk => ?_
  rw [May.rm_flags] at hk
  calc ((s.writeRM x r.1).setFlags r.2).flag k = (s.setFlags r.2).flag k := State.flag_congr rfl k
    _ = s.flag k := hf k hk
    _ = (s.writeRM x r.1).flag k := (State.flag_congr (s.writeRM_frame x r.1).1 k).symm

/-- R85: a `pp` operand written. -/
theorem Frame.writePair (p : Pair) (hr : ∀ r ∈ pairRegs p, r ∈ w.regs) (hsp : p = .sp → w.sp = true) (s : State)
    (v : Word) : Frame w s (s.writePair p v) := by
  cases p with
  | bc => exact (Frame.refl w s).then_setBc (hr .b (by decide)) (hr .c (by decide)) v
  | de => exact (Frame.refl w s).then_setDe (hr .d (by decide)) (hr .e (by decide)) v
  | hl => exact (Frame.refl w s).then_setHl (hr .h (by decide)) (hr .l (by decide)) v
  | sp => exact Frame.setSp (hsp rfl) s v

/-- R24: a popped value written. -/
theorem Frame.pop (rp : StackPair) (s : State) (v : Word) :
    Frame (may (.pop rp) s) s (s.dropTop16.writeStackPair rp v) := by
  have hdrop : Frame (may (.pop rp) s) s s.dropTop16 := Frame.setSp (by cases rp <;> rfl) s _
  cases rp with
  | bc => exact hdrop.then_setBc (by simp [may]) (by simp [may]) v
  | de => exact hdrop.then_setDe (by simp [may]) (by simp [may]) v
  | hl => exact hdrop.then_setHl (by simp [may]) (by simp [may]) v
  | psw =>
    exact (hdrop.then_setFlags fun k hk => absurd k.mem_all hk).then_writeReg (List.mem_singleton_self Reg.a) _

/-! Frames of the 16-bit operations' flags, by FLAG_PROFILE -/

theorem May.with16_of_canonical (h : s.params.flagProfile = .canonical) (w : May) (fs : List Flag) :
    May.with16 s w fs = { w with flags := fs } := by
  simp [May.with16, h]

theorem May.with16_of_docLiteral (h : s.params.flagProfile = .docLiteral) (w : May) (fs : List Flag) :
    May.with16 s w fs = { w with flags := Flag.all, draws := true } := by
  simp [May.with16, h]

@[simp] theorem May.with16_regs (s : State) (w : May) (fs : List Flag) : (May.with16 s w fs).regs = w.regs := by
  unfold May.with16; split <;> rfl

@[simp] theorem May.with16_sp (s : State) (w : May) (fs : List Flag) : (May.with16 s w fs).sp = w.sp := by
  unfold May.with16; split <;> rfl

theorem Frame.params_eq (h : Frame w s t) : t.params = s.params := by
  obtain ⟨-, -, -, -, -, -, -, -, hp, -⟩ := h
  exact hp

/-- R150: the flags of the 16-bit increment and decrement. -/
theorem Frame.then_flagsStep16 {fs : List Flag} (h : Frame (May.with16 s w fs) s t) (cy : Bool) :
    Frame (May.with16 s w fs) s (t.flagsStep16 cy) := by
  obtain ⟨-, he⟩ | ⟨hprof, he⟩ := t.flagsStep16_cases cy <;> rw [he]
  · exact h
  · rw [h.params_eq] at hprof
    rw [May.with16_of_docLiteral hprof] at h ⊢
    exact h.then_drawFlags rfl rfl cy

/-- R149: the flags of the 16-bit add. -/
theorem Frame.then_flagsAdd16 (h : Frame (May.with16 s w [.cy]) s t) (cy : Bool) :
    Frame (May.with16 s w [.cy]) s (t.flagsAdd16 cy) := by
  obtain ⟨hprof, he⟩ | ⟨hprof, he⟩ := t.flagsAdd16_cases cy <;> rw [he]
  · rw [h.params_eq] at hprof
    rw [May.with16_of_canonical hprof] at h ⊢
    exact h.then_setFlags fun k hk => t.flag_setFlags_cy cy hk
  · rw [h.params_eq] at hprof
    rw [May.with16_of_docLiteral hprof] at h ⊢
    exact h.then_drawFlags rfl rfl cy

/-- R217, R218: INX and DCX. -/
theorem Frame.step16 (s : State) (rp : Pair) (v : Word) (cy : Bool) :
    Frame (May.with16 s (May.pair rp) []) s ((s.writePair rp v).flagsStep16 cy) :=
  (Frame.writePair rp (by simp [May.pair]) (by simp [May.pair]) s v).then_flagsStep16 cy

/-! Frames of the 8-bit operations whose flags are not all written -/

/-- R158: the flags of INR and DCR are all written but CY, which is kept under `canonical`. -/
theorem State.flag_setFlags_stepFlags {f : Flags} (hcy : s.params.flagProfile = .canonical → f.cy = s.flags.cy)
    {k : Flag} (hk : k ∉ May.stepFlags s) : (s.setFlags f).flag k = s.flag k := by
  unfold May.stepFlags at hk
  cases hprof : s.params.flagProfile with
  | canonical =>
    rw [hprof] at hk
    cases k with
    | cy => exact hcy hprof
    | s | z | ac | p => simp at hk
  | docLiteral => rw [hprof] at hk; exact absurd k.mem_all hk

/-- R147: INR. -/
theorem Frame.inr (hwf : Memory.wf s.mem = true) (x : RegM) (v : Byte) :
    Frame (May.rm s x (May.stepFlags s)) s (s.setRM x (inc8 s.params.flagProfile s.flags v)) :=
  Frame.setRM hwf x _ fun _ hk => State.flag_setFlags_stepFlags (fun hprof => by rw [hprof]; rfl) hk

/-- R148: DCR. -/
theorem Frame.dcr (hwf : Memory.wf s.mem = true) (x : RegM) (v : Byte) :
    Frame (May.rm s x (May.stepFlags s)) s (s.setRM x (dec8 s.params.flagProfile s.flags v)) :=
  Frame.setRM hwf x _ fun _ hk => State.flag_setFlags_stepFlags (fun hprof => by rw [hprof]; rfl) hk

/-- R151, R158: CMA writes no flag under `canonical`, and S, Z and P under `doc_literal`. -/
theorem Frame.cma (s : State) : Frame (may .cma s) s (s.setAcc (cma8 s.params.flagProfile s.flags s.regs.a)) := by
  unfold may
  cases s.params.flagProfile with
  | canonical => exact Frame.setAcc _ fun k _ => State.flag_congr rfl k
  | docLiteral => exact Frame.setAcc _ fun k hk => s.flag_setFlags_szp _ hk

/-! Frames of the conditional effects -/

theorem Frame.jumpIf (s : State) (ccc : Cond) (target : Word) :
    Frame (May.when (s.flags.cond ccc) May.jump) s (s.jumpIf ccc target) :=
  Frame.when _ (Frame.setPc s target)

theorem Frame.callIf (hwf : Memory.wf s.mem = true) (ccc : Cond) (target : Word) :
    Frame (May.when (s.flags.cond ccc) (May.call s)) s (s.callIf ccc target) :=
  Frame.when _ (Frame.callTo hwf target)

theorem Frame.returnIf (s : State) (ccc : Cond) :
    Frame (May.when (s.flags.cond ccc) May.ret) s (s.returnIf ccc) :=
  Frame.when _ (Frame.returnFrom s)

/-- R305: XTHL writes HL and the two bytes at SP. -/
theorem Frame.xthl (hwf : Memory.wf s.mem = true) (v v' : Word) :
    Frame (may .xthl s) s ((s.memWrite16 s.sp v).setHl v') := by
  have hlow : Frame (may .xthl s) s (s.memWrite s.sp (loByte v)) :=
    (Frame.refl _ s).then_memWrite hwf (by simp [may]) _
  have hword : Frame (may .xthl s) s (s.memWrite16 s.sp v) :=
    hlow.then_memWrite (Memory.wf_write hwf _ _) (by simp [may]) _
  exact hword.then_setHl (by simp [may]) (by simp [may]) v'

end Frames

/-- R33, R59, R158: every instruction completes and changes only what the tables of writers list for it, one line of the
tables at a time. -/
theorem exec_frame (i : Instr) {s : State} (hwf : Memory.wf s.mem = true) :
    ∃ t, exec i s = .next t ∧ Frame (may i s) s t := by
  cases i with
  | movRR dst _ | movRM dst =>
    exact ⟨_, rfl, (Frame.refl _ s).then_writeReg (List.mem_singleton_self dst) _⟩
  | mvi dst d8 => exact ⟨_, rfl, Frame.writeRM hwf dst d8 []⟩
  | lxi rp d16 => exact ⟨_, rfl, Frame.writePair rp (fun _ hr => hr) (by rintro rfl; rfl) s d16⟩
  | lda _ | ldax _ => exact ⟨_, rfl, (Frame.refl _ s).then_writeReg (List.mem_singleton_self Reg.a) _⟩
  | movMR _ | sta _ | stax _ => exact ⟨_, rfl, Frame.memWrite hwf _ _⟩
  | shld a16 => exact ⟨_, rfl, Frame.memWrite16 hwf a16 s.hl⟩
  | lhld _ => exact ⟨_, rfl, (Frame.refl _ s).then_setHl (by simp [may]) (by simp [may]) _⟩
  | xchg =>
    exact ⟨_, rfl, ((Frame.refl _ s).then_setHl (by simp [may]) (by simp [may]) _).then_setDe (by simp [may])
      (by simp [may]) _⟩
  | add _ | adi _ | adc _ | aci _ | sub _ | sui _ | sbb _ | sbi _ | daa
  | ana _ | ani _ | xra _ | xri _ | ora _ | ori _ => exact ⟨_, rfl, Frame.setAcc_all s _⟩
  | inr x => exact ⟨_, rfl, Frame.inr hwf x _⟩
  | dcr x => exact ⟨_, rfl, Frame.dcr hwf x _⟩
  | inx rp | dcx rp => exact ⟨_, rfl, Frame.step16 s rp _ _⟩
  | dad rp =>
    exact ⟨_, rfl, ((Frame.refl _ s).then_setHl (by simp) (by simp) _).then_flagsAdd16 _⟩
  | cmp _ | cpi _ => exact ⟨_, rfl, (Frame.refl _ s).then_setFlags fun k hk => absurd k.mem_all hk⟩
  | rlc | rrc | ral | rar => exact ⟨_, rfl, Frame.setAcc _ fun k hk => s.flag_setFlags_cy _ hk⟩
  | cma => exact ⟨_, rfl, Frame.cma s⟩
  | cmc | stc => exact ⟨_, rfl, (Frame.refl _ s).then_setFlags fun k hk => s.flag_setFlags_cy _ hk⟩
  | jmp _ | starJmp _ | pchl => exact ⟨_, rfl, Frame.setPc s _⟩
  | jnz _ | jz _ | jnc _ | jc _ | jpo _ | jpe _ | jp _ | jm _ => exact ⟨_, rfl, Frame.jumpIf s _ _⟩
  | call _ | starCall _ _ | rst _ => exact ⟨_, rfl, Frame.callTo hwf _⟩
  | cnz _ | cz _ | cnc _ | cc _ | cpo _ | cpe _ | cp _ | cm _ => exact ⟨_, rfl, Frame.callIf hwf _ _⟩
  | ret | starRet => exact ⟨_, rfl, Frame.returnFrom s⟩
  | rnz | rz | rnc | rc | rpo | rpe | rp | rm => exact ⟨_, rfl, Frame.returnIf s _⟩
  | push rp => exact ⟨_, rfl, Frame.push16 hwf _⟩
  | pop rp => exact ⟨_, rfl, Frame.pop rp s _⟩
  | xthl => exact ⟨_, rfl, Frame.xthl hwf _ _⟩
  | sphl => exact ⟨_, rfl, Frame.setSp rfl s _⟩
  | inp port =>
    exact ⟨_, rfl, (Frame.callPort rfl _).then_writeReg (List.mem_singleton_self Reg.a) _⟩
  | out port => exact ⟨_, rfl, Frame.callPort rfl _⟩
  | ei | di | hlt => exact ⟨_, rfl, Frame.of_cells rfl rfl rfl rfl (by simp [may])⟩
  | nop | starNop _ => exact ⟨_, rfl, Frame.rfl_empty s⟩

/-- Settles O22: a frame for every instruction, from the frames of the shared operations. -/
theorem everyInstructionCompletesWithinItsFrame : Obligations.EveryInstructionCompletesWithinItsFrame :=
  fun i _ hwf => exec_frame i hwf

end Sys2Proof.Machine
end

section
/-! PROOFS. INTE (10_state.md R29): every operation carries it along and none reads it. -/

namespace Sys2Proof.Machine

section Inte

variable (s : State) (b : Bool)

@[simp] theorem State.readReg_setInte (r : Reg) : (s.setInte b).readReg r = s.readReg r := by cases r <;> rfl

@[simp] theorem State.readRM_setInte (x : RegM) : (s.setInte b).readRM x = s.readRM x := by
  cases x with
  | reg r => exact s.readReg_setInte b r
  | m => rfl

theorem State.writeRM_setInte (x : RegM) (v : Byte) : (s.setInte b).writeRM x v = (s.writeRM x v).setInte b := by
  cases x <;> rfl

theorem State.setRM_setInte (x : RegM) (r : Byte × Flags) : (s.setInte b).setRM x r = (s.setRM x r).setInte b := by
  cases x <;> rfl

@[simp] theorem State.readPair_setInte (p : Pair) : (s.setInte b).readPair p = s.readPair p := by cases p <;> rfl

theorem State.writePair_setInte (p : Pair) (v : Word) : (s.setInte b).writePair p v = (s.writePair p v).setInte b := by
  cases p <;> rfl

@[simp] theorem State.readStackPair_setInte (p : StackPair) : (s.setInte b).readStackPair p = s.readStackPair p := by
  cases p <;> rfl

theorem State.writeStackPair_setInte (p : StackPair) (v : Word) :
    (s.setInte b).writeStackPair p v = (s.writeStackPair p v).setInte b := by
  cases p <;> rfl

@[simp] theorem State.ptr_setInte (p : PtrPair) : (s.setInte b).ptr p = s.ptr p := by cases p <;> rfl

theorem State.flagsAdd16_setInte (cy : Bool) : (s.setInte b).flagsAdd16 cy = (s.flagsAdd16 cy).setInte b := by
  simp only [State.flagsAdd16, State.setInte_params]
  split <;> rfl

theorem State.flagsStep16_setInte (cy : Bool) : (s.setInte b).flagsStep16 cy = (s.flagsStep16 cy).setInte b := by
  simp only [State.flagsStep16, State.setInte_params]
  split <;> rfl

theorem State.jumpIf_setInte (ccc : Cond) (target : Word) :
    (s.setInte b).jumpIf ccc target = (s.jumpIf ccc target).setInte b := by
  simp only [State.jumpIf, State.setInte_flags, apply_ite (State.setInte · b)]
  rfl

theorem State.callIf_setInte (ccc : Cond) (target : Word) :
    (s.setInte b).callIf ccc target = (s.callIf ccc target).setInte b := by
  simp only [State.callIf, State.setInte_flags, apply_ite (State.setInte · b)]
  rfl

theorem State.returnIf_setInte (ccc : Cond) : (s.setInte b).returnIf ccc = (s.returnIf ccc).setInte b := by
  simp only [State.returnIf, State.setInte_flags, apply_ite (State.setInte · b)]
  rfl

theorem State.callPort_setInte (e : PortEvent) : (s.setInte b).callPort e = (s.callPort e).setInte b := by
  simp only [State.callPort, State.setInte_params]
  split <;> rfl

/-- The stream at pc, and so the instruction fetched, is the same. -/
theorem State.fetch_setInte : (s.setInte b).fetch = s.fetch := rfl

/-- R29: an instruction that is neither EI nor DI completes with the same effect from either INTE, which is carried
along. -/
theorem exec_setInte {i : Instr} (hei : i ≠ .ei) (hdi : i ≠ .di) :
    ∃ t, exec i s = .next t ∧ exec i (s.setInte b) = .next (t.setInte b) := by
  cases i with
  | ei => exact absurd rfl hei
  | di => exact absurd rfl hdi
  | movRR dst src | movMR src => exact ⟨_, rfl, by simp only [exec, execMovRR, execMovMR, State.readReg_setInte]; rfl⟩
  | mvi dst d8 => exact ⟨_, rfl, congrArg Host.Outcome.next (s.writeRM_setInte b dst d8)⟩
  | lxi rp d16 => exact ⟨_, rfl, congrArg Host.Outcome.next (s.writePair_setInte b rp d16)⟩
  | ldax rp | stax rp => exact ⟨_, rfl, by simp only [exec, execLdax, execStax, State.ptr_setInte]; rfl⟩
  | add x | adc x | sub x | sbb x | cmp x | ana x | xra x | ora x =>
    exact ⟨_, rfl, by
      simp only [exec, execAdd, execAdc, execSub, execSbb, execCmp, execAna, execXra, execOra, State.readRM_setInte]
      rfl⟩
  | inr x | dcr x =>
    exact ⟨_, rfl, by simp only [exec, execInr, execDcr, State.readRM_setInte, State.setRM_setInte]; rfl⟩
  | inx rp | dcx rp =>
    exact ⟨_, rfl, by
      simp only [exec, execInx, execDcx, State.readPair_setInte, State.writePair_setInte, State.flagsStep16_setInte]⟩
  | dad rp =>
    refine ⟨_, rfl, ?_⟩
    simp only [exec, execDad, State.readPair_setInte]
    exact congrArg Host.Outcome.next (State.flagsAdd16_setInte (s.setHl (s.hl + s.readPair rp)) b _)
  | jnz _ | jz _ | jnc _ | jc _ | jpo _ | jpe _ | jp _ | jm _ =>
    exact ⟨_, rfl, congrArg Host.Outcome.next (s.jumpIf_setInte b _ _)⟩
  | cnz _ | cz _ | cnc _ | cc _ | cpo _ | cpe _ | cp _ | cm _ =>
    exact ⟨_, rfl, congrArg Host.Outcome.next (s.callIf_setInte b _ _)⟩
  | rnz | rz | rnc | rc | rpo | rpe | rp | rm => exact ⟨_, rfl, congrArg Host.Outcome.next (s.returnIf_setInte b _)⟩
  | push rp => exact ⟨_, rfl, by simp only [exec, execPush, State.readStackPair_setInte]; rfl⟩
  | pop rp => exact ⟨_, rfl, congrArg Host.Outcome.next (s.dropTop16.writeStackPair_setInte b rp s.top16)⟩
  | inp port => exact ⟨_, rfl, by simp only [exec, execInp, State.callPort_setInte]; rfl⟩
  | out port => exact ⟨_, rfl, congrArg Host.Outcome.next (s.callPort_setInte b _)⟩
  | movRM _ | lda _ | sta _ | lhld _ | shld _ | xchg | adi _ | aci _ | sui _ | sbi _ | daa | cpi _ | ani _ | xri _
  | ori _ | rlc | rrc | ral | rar | cma | cmc | stc | jmp _ | call _ | ret | rst _ | pchl | xthl | sphl | hlt | nop
  | starNop _ | starJmp _ | starRet | starCall _ _ => exact ⟨_, rfl, rfl⟩

end Inte

/-- Settles O20: a fault at fetch and every instruction but EI and DI carry INTE along; EI and DI write it without
reading it. -/
theorem inteIsNeverRead : Obligations.InteIsNeverRead := by
  intro s t b hstep
  obtain ⟨hrun, ⟨r, hfetch, rfl⟩ | ⟨i, hfetch, hexec⟩⟩ := step_cases hstep
  · refine ⟨(s.setInte b).raise r, ?_, rfl, .inr (.inr ⟨?_, ?_, rfl⟩)⟩
    · rw [step_running (s := s.setInte b) hrun, State.fetch_setInte, hfetch]
    all_goals simp [hfetch]
  · have hrunb : step (s.setInte b) = exec i ((s.advancePc i.length).setInte b) := by
      rw [step_running (s := s.setInte b) hrun, State.fetch_setInte, hfetch]
      rfl
    rw [hrunb, hfetch]
    by_cases hei : i = .ei
    · subst hei
      obtain rfl := Host.Outcome.next.inj hexec
      exact ⟨_, rfl, rfl, .inl ⟨rfl, rfl⟩⟩
    by_cases hdi : i = .di
    · subst hdi
      obtain rfl := Host.Outcome.next.inj hexec
      exact ⟨_, rfl, rfl, .inr (.inl ⟨rfl, rfl⟩)⟩
    obtain ⟨t', ht', hb⟩ := exec_setInte (s.advancePc i.length) b hei hdi
    obtain rfl := Host.Outcome.next.inj (hexec.symm.trans ht')
    exact ⟨t.setInte b, hb, rfl, .inr (.inr ⟨by simpa using hei, by simpa using hdi, rfl⟩)⟩

end Sys2Proof.Machine
end

section
/-! PROOFS. The layout of the pairs (10_state.md R23) and of the flag byte (R27), and the reset state (R34). -/

namespace Sys2Proof.Machine

theorem hiByte_eq_ofNat (v : Word) : hiByte v = BitVec.ofNat 8 (v.toNat / 256) := by
  rw [← toNat_hiByte, BitVec.ofNat_toNat, BitVec.setWidth_eq]

theorem loByte_eq_ofNat (v : Word) : loByte v = BitVec.ofNat 8 v.toNat := by
  apply BitVec.eq_of_toNat_eq
  rw [toNat_loByte, BitVec.toNat_ofNat]

/-- Settles O26: a pair's number is that of its two registers, and its writes are writes of them. -/
theorem pairsAreViews : Obligations.PairsAreViews := by
  intro s v x
  rw [← hiByte_eq_ofNat, ← loByte_eq_ofNat]
  exact ⟨toNat_wordOf _ _, toNat_wordOf _ _, toNat_wordOf _ _, s.bc_setBc v, s.de_setDe v, s.hl_setHl v,
    s.setBc_regs v, s.setDe_regs v, s.setHl_regs v, rfl, rfl, rfl, rfl, rfl, rfl⟩

/-- R27: the packed byte as a number, each flag at its place value. -/
theorem Flags.toNat_pack (f : Flags) :
    f.pack.toNat = f.s.toNat * 128 + f.z.toNat * 64 + f.ac.toNat * 16 + f.p.toNat * 4 + 2 + f.cy.toNat := by
  obtain ⟨s, z, ac, p, cy⟩ := f
  cases s <;> cases z <;> cases ac <;> cases p <;> cases cy <;> rfl

/-- A bit of a byte is a digit of its number. -/
theorem getLsbD_iff_div_mod (v : Byte) (k : Nat) : v.getLsbD k = true ↔ v.toNat / 2 ^ k % 2 = 1 := by
  rw [BitVec.getLsbD, Nat.testBit_eq_decide_div_mod_eq, decide_eq_true_iff]

/-- Settles O27: packing by its place values, unpacking by the bit it reads for each flag. -/
theorem flagByteLayout : Obligations.FlagByteLayout := by
  intro f v
  have hcy : v.getLsbD 0 = true ↔ v.toNat % 2 = 1 := by
    simpa only [pow_zero, Nat.div_one] using getLsbD_iff_div_mod v 0
  exact ⟨f.toNat_pack, f.unpack_pack, getLsbD_iff_div_mod v 7, getLsbD_iff_div_mod v 6, getLsbD_iff_div_mod v 4,
    getLsbD_iff_div_mod v 2, hcy⟩

/-- Settles O19: the start of a run with the default parameters computes to the reset state. -/
theorem resetIsAStartOfRun : Obligations.ResetIsAStartOfRun := ⟨rfl, rfl, rfl, rfl, rfl, rfl⟩

end Sys2Proof.Machine
end

section
/-! PROOFS. Memory accesses (20_memory.md R51 to R56): what a byte, a word and the stack top read as after a write. -/

namespace Sys2Proof.Machine

/-- Settles O23: a read after a write on canonical memory; a read depends on the index alone. -/
theorem byteReadAfterByteWrite : Obligations.ByteReadAfterByteWrite := fun s a b v hwf =>
  ⟨State.memRead_memWrite hwf a b v, fun hphys => congrArg (Memory.read s.mem) hphys⟩

/-- R54, R55: a word read back after it was written, where its two bytes have indexes of their own. -/
theorem State.memRead16_memWrite16 {s : State} (hwf : Memory.wf s.mem = true) {a : Word}
    (hne : s.phys (a + 1) ≠ s.phys a) (v : Word) : (s.memWrite16 a v).memRead16 a = v := by
  have hhigh : (s.memWrite16 a v).memRead (a + 1) = hiByte v := by
    rw [State.memRead_memWrite16 hwf, if_pos rfl]
  have hlow : (s.memWrite16 a v).memRead a = loByte v := by
    rw [State.memRead_memWrite16 hwf, if_neg hne.symm, if_pos rfl]
  rw [State.memRead16, hhigh, hlow, wordOf_hiByte_loByte]

/-- Settles O24: a word is its high byte above its low byte, and a word write is its two byte writes. -/
theorem wordAccessesAreLittleEndian : Obligations.WordAccessesAreLittleEndian := fun _ a v b hwf =>
  ⟨toNat_wordOf _ _, fun hne => State.memRead16_memWrite16 hwf hne v, State.memRead_memWrite16 hwf a b v⟩

/-- R56: SP after a push. -/
theorem State.push16_sp_eq (s : State) (v : Word) : (s.push16 v).sp = s.sp - 2 := BitVec.sub_sub s.sp 1 1

/-- Settles O25: the two bytes read back through the read after a push, with SP + 1 of the pushed stack the old SP - 1. -/
theorem popGivesBackThePushedWord : Obligations.PopGivesBackThePushedWord := by
  intro s v hwf hne
  have hhigh : (s.push16 v).memRead (s.sp - 1) = hiByte v := by
    rw [State.memRead_push16 hwf, if_neg hne, if_pos rfl]
  have hlow : (s.push16 v).memRead (s.sp - 2) = loByte v := by
    rw [State.memRead_push16 hwf, if_pos rfl]
  have hnext : s.sp - 2 + 1 = s.sp - 1 := by bv_omega
  have htop : (s.push16 v).top16 = v := by
    rw [State.top16, State.push16_sp_eq, hnext, hhigh, hlow, wordOf_hiByte_loByte]
  have hsp : (s.push16 v).dropTop16.sp = s.sp := by
    rw [State.dropTop16_sp, State.push16_sp_eq, BitVec.sub_add_cancel]
  exact ⟨s.push16_sp_eq v, hhigh, hlow, htop, hsp⟩

end Sys2Proof.Machine
end

section
/-! PROOFS. What every step keeps: a property that survives each named update of the state survives every instruction, so
the invariant (20_memory.md R50, 00_scope.md R7) and the port log (R63 to R65) take one line per update. -/

namespace Sys2Proof.Machine

/-- A property that no update of a cell, a register, the flags or a byte of memory breaks. Calls of the port handler are
left to `exec_keeps`, because only IN and OUT make them. -/
structure KeptByUpdates (P : State → Prop) : Prop where
  writeReg {s : State} (r : Reg) (v : Byte) : P s → P (s.writeReg r v)
  setFlags {s : State} (f : Flags) : P s → P (s.setFlags f)
  drawFlags {s : State} (cy : Bool) : P s → P (s.drawFlags cy)
  setSp {s : State} (v : Word) : P s → P (s.setSp v)
  setPc {s : State} (v : Word) : P s → P (s.setPc v)
  setInte {s : State} (b : Bool) : P s → P (s.setInte b)
  setRun {s : State} (r : RunState) : P s → P (s.setRun r)
  memWrite {s : State} (a : Word) (v : Byte) : P s → P (s.memWrite a v)

section Kept

variable {P : State → Prop} (hP : KeptByUpdates P) {s : State}
include hP

theorem KeptByUpdates.setBc (v : Word) (h : P s) : P (s.setBc v) := hP.writeReg _ _ (hP.writeReg _ _ h)

theorem KeptByUpdates.setDe (v : Word) (h : P s) : P (s.setDe v) := hP.writeReg _ _ (hP.writeReg _ _ h)

theorem KeptByUpdates.setHl (v : Word) (h : P s) : P (s.setHl v) := hP.writeReg _ _ (hP.writeReg _ _ h)

theorem KeptByUpdates.writePair (p : Pair) (v : Word) (h : P s) : P (s.writePair p v) := by
  cases p with
  | bc => exact hP.setBc v h
  | de => exact hP.setDe v h
  | hl => exact hP.setHl v h
  | sp => exact hP.setSp v h

theorem KeptByUpdates.writeStackPair (p : StackPair) (v : Word) (h : P s) : P (s.writeStackPair p v) := by
  cases p with
  | bc => exact hP.setBc v h
  | de => exact hP.setDe v h
  | hl => exact hP.setHl v h
  | psw => exact hP.writeReg _ _ (hP.setFlags _ h)

theorem KeptByUpdates.writeRM (x : RegM) (v : Byte) (h : P s) : P (s.writeRM x v) := by
  cases x with
  | reg r => exact hP.writeReg r v h
  | m => exact hP.memWrite s.hl v h

theorem KeptByUpdates.setAcc (r : Byte × Flags) (h : P s) : P (s.setAcc r) := hP.setFlags _ (hP.writeReg _ _ h)

theorem KeptByUpdates.setRM (x : RegM) (r : Byte × Flags) (h : P s) : P (s.setRM x r) :=
  hP.setFlags _ (hP.writeRM x r.1 h)

theorem KeptByUpdates.flagsAdd16 (cy : Bool) (h : P s) : P (s.flagsAdd16 cy) := by
  obtain ⟨-, he⟩ | ⟨-, he⟩ := s.flagsAdd16_cases cy <;> rw [he]
  · exact hP.setFlags _ h
  · exact hP.drawFlags cy h

theorem KeptByUpdates.flagsStep16 (cy : Bool) (h : P s) : P (s.flagsStep16 cy) := by
  obtain ⟨-, he⟩ | ⟨-, he⟩ := s.flagsStep16_cases cy <;> rw [he]
  · exact h
  · exact hP.drawFlags cy h

theorem KeptByUpdates.memWrite16 (a v : Word) (h : P s) : P (s.memWrite16 a v) := hP.memWrite _ _ (hP.memWrite _ _ h)

theorem KeptByUpdates.push8 (v : Byte) (h : P s) : P (s.push8 v) := hP.memWrite _ _ (hP.setSp _ h)

theorem KeptByUpdates.push16 (v : Word) (h : P s) : P (s.push16 v) := hP.push8 _ (hP.push8 _ h)

theorem KeptByUpdates.callTo (target : Word) (h : P s) : P (s.callTo target) := hP.setPc _ (hP.push16 _ h)

theorem KeptByUpdates.returnFrom (h : P s) : P s.returnFrom := hP.setPc _ (hP.setSp _ h)

theorem KeptByUpdates.jumpIf (ccc : Cond) (target : Word) (h : P s) : P (s.jumpIf ccc target) := by
  obtain ⟨-, he⟩ | ⟨-, he⟩ := s.jumpIf_cases ccc target <;> rw [he]
  · exact hP.setPc target h
  · exact h

theorem KeptByUpdates.callIf (ccc : Cond) (target : Word) (h : P s) : P (s.callIf ccc target) := by
  obtain ⟨-, he⟩ | ⟨-, he⟩ := s.callIf_cases ccc target <;> rw [he]
  · exact hP.callTo target h
  · exact h

theorem KeptByUpdates.returnIf (ccc : Cond) (h : P s) : P (s.returnIf ccc) := by
  obtain ⟨-, he⟩ | ⟨-, he⟩ := s.returnIf_cases ccc <;> rw [he]
  · exact hP.returnFrom h
  · exact h

/-- Every instruction completes and keeps such a property; IN and OUT do where a call of the handler keeps it. -/
theorem exec_keeps {i : Instr}
    (hports : (∃ port, i = .inp port ∨ i = .out port) → ∀ {s : State} (e : PortEvent), P s → P (s.callPort e))
    (h : P s) : ∃ t, exec i s = .next t ∧ P t := by
  cases i with
  | movRR _ _ | movRM _ | lda _ | ldax _ => exact ⟨_, rfl, hP.writeReg _ _ h⟩
  | mvi _ _ => exact ⟨_, rfl, hP.writeRM _ _ h⟩
  | lxi _ _ => exact ⟨_, rfl, hP.writePair _ _ h⟩
  | movMR _ | sta _ | stax _ => exact ⟨_, rfl, hP.memWrite _ _ h⟩
  | shld _ => exact ⟨_, rfl, hP.memWrite16 _ _ h⟩
  | lhld _ => exact ⟨_, rfl, hP.setHl _ h⟩
  | xchg => exact ⟨_, rfl, hP.setDe _ (hP.setHl _ h)⟩
  | add _ | adi _ | adc _ | aci _ | sub _ | sui _ | sbb _ | sbi _ | daa
  | ana _ | ani _ | xra _ | xri _ | ora _ | ori _ | rlc | rrc | ral | rar | cma => exact ⟨_, rfl, hP.setAcc _ h⟩
  | inr _ | dcr _ => exact ⟨_, rfl, hP.setRM _ _ h⟩
  | inx _ | dcx _ => exact ⟨_, rfl, hP.flagsStep16 _ (hP.writePair _ _ h)⟩
  | dad _ => exact ⟨_, rfl, hP.flagsAdd16 _ (hP.setHl _ h)⟩
  | cmp _ | cpi _ | cmc | stc => exact ⟨_, rfl, hP.setFlags _ h⟩
  | jmp _ | starJmp _ | pchl => exact ⟨_, rfl, hP.setPc _ h⟩
  | jnz _ | jz _ | jnc _ | jc _ | jpo _ | jpe _ | jp _ | jm _ => exact ⟨_, rfl, hP.jumpIf _ _ h⟩
  | call _ | starCall _ _ | rst _ => exact ⟨_, rfl, hP.callTo _ h⟩
  | cnz _ | cz _ | cnc _ | cc _ | cpo _ | cpe _ | cp _ | cm _ => exact ⟨_, rfl, hP.callIf _ _ h⟩
  | ret | starRet => exact ⟨_, rfl, hP.returnFrom h⟩
  | rnz | rz | rnc | rc | rpo | rpe | rp | rm => exact ⟨_, rfl, hP.returnIf _ h⟩
  | push _ => exact ⟨_, rfl, hP.push16 _ h⟩
  | pop _ => exact ⟨_, rfl, hP.writeStackPair _ _ (hP.setSp _ h)⟩
  | xthl => exact ⟨_, rfl, hP.setHl _ (hP.memWrite16 _ _ h)⟩
  | sphl => exact ⟨_, rfl, hP.setSp _ h⟩
  | inp port => exact ⟨_, rfl, hP.writeReg _ _ (hports ⟨port, .inl rfl⟩ _ h)⟩
  | out port => exact ⟨_, rfl, hports ⟨port, .inr rfl⟩ _ h⟩
  | ei | di => exact ⟨_, rfl, hP.setInte _ h⟩
  | hlt => exact ⟨_, rfl, hP.setRun _ h⟩
  | nop | starNop _ => exact ⟨_, rfl, h⟩

end Kept

/-! ### The invariant -/

theorem keptByUpdates_inv : KeptByUpdates Inv where
  writeReg _ _ h := State.inv_congr h rfl rfl
  setFlags _ h := State.inv_congr h rfl rfl
  drawFlags _ h := State.inv_congr h rfl rfl
  setSp _ h := State.inv_congr h rfl rfl
  setPc _ h := State.inv_congr h rfl rfl
  setInte _ h := State.inv_congr h rfl rfl
  setRun _ h := State.inv_congr h rfl rfl
  memWrite a v h := State.inv_memWrite h a v

/-- R65: a call of the handler keeps the invariant. -/
theorem State.inv_callPort {s : State} (e : PortEvent) (h : Inv s) : Inv (s.callPort e) := by
  obtain ⟨-, he⟩ | ⟨-, he⟩ := s.callPort_cases e <;> rw [he]
  · exact h
  · exact State.inv_congr h rfl rfl

/-- Settles O15: a fetch fault changes the run state alone, and every instruction keeps what its updates keep. -/
theorem stepKeepsTheInvariant : Obligations.StepKeepsTheInvariant := by
  intro s t hs hstep
  obtain ⟨-, ⟨r, -, rfl⟩ | ⟨i, -, hexec⟩⟩ := step_cases hstep
  · exact State.inv_congr hs rfl rfl
  · have hpc : Inv (s.advancePc i.length) := State.inv_congr hs rfl rfl
    obtain ⟨t', ht', hinv⟩ := exec_keeps keptByUpdates_inv (fun _ _ e => State.inv_callPort e) hpc
    obtain rfl := Host.Outcome.next.inj (hexec.symm.trans ht')
    exact hinv

/-- Settles O16: the default parameters are in range and no byte is listed. -/
theorem resetMeetsTheInvariant : Obligations.ResetMeetsTheInvariant := ⟨rfl, rfl, rfl⟩

/-! ### The port log -/

theorem keptByUpdates_portLog (log : List PortEvent) : KeptByUpdates fun t => t.portLog = log where
  writeReg _ _ h := h
  setFlags _ h := h
  drawFlags _ h := h
  setSp _ h := h
  setPc _ h := h
  setInte _ h := h
  setRun _ h := h
  memWrite _ _ h := h

/-- R63, R65: what an instruction does to the port log, IN and OUT being the only ones that add to it. -/
theorem exec_portLog (i : Instr) (s : State) : ∃ t, exec i s = .next t ∧
    (t.portLog = s.portLog ∨ s.params.portHandler ≠ .absent ∧ ∃ port,
      (i = .inp port ∧ t.portLog = s.portLog ++ [.read port]) ∨
      (i = .out port ∧ t.portLog = s.portLog ++ [.write port s.regs.a])) := by
  by_cases hi : ∃ port, i = .inp port ∨ i = .out port
  · obtain ⟨port, rfl | rfl⟩ := hi
    · refine ⟨_, rfl, ?_⟩
      obtain ⟨-, he⟩ | ⟨hh, he⟩ := s.callPort_cases (.read port) <;> rw [State.writeReg_portLog, he]
      · exact .inl rfl
      · exact .inr ⟨hh, port, .inl ⟨rfl, rfl⟩⟩
    · refine ⟨_, rfl, ?_⟩
      obtain ⟨-, he⟩ | ⟨hh, he⟩ := s.callPort_cases (.write port s.regs.a) <;> rw [he]
      · exact .inl rfl
      · exact .inr ⟨hh, port, .inr ⟨rfl, rfl⟩⟩
  · obtain ⟨t, ht, hlog⟩ := exec_keeps (keptByUpdates_portLog s.portLog) (fun h => absurd h hi) rfl
    exact ⟨t, ht, .inl hlog⟩

/-- Settles O21: a fetch fault makes no call, and an instruction makes the one that `exec_portLog` names. -/
theorem onlyInAndOutReachThePorts : Obligations.OnlyInAndOutReachThePorts := by
  intro s t hstep
  obtain ⟨-, ⟨r, -, rfl⟩ | ⟨i, hfetch, hexec⟩⟩ := step_cases hstep
  · exact .inl rfl
  · obtain ⟨t', ht', hlog⟩ := exec_portLog i (s.advancePc i.length)
    obtain rfl := Host.Outcome.next.inj (hexec.symm.trans ht')
    simpa only [hfetch, Decoded.ok.injEq, State.advancePc_portLog, State.advancePc_params, State.advancePc_regs]
      using hlog

end Sys2Proof.Machine
end

section
/-! PROOFS. The start of a run (20_memory.md R62). -/

namespace Sys2Proof.Machine

/-- Settles O18: the capacity is in range, so the image's length decides. -/
theorem oversizedImageIsRefused : Obligations.OversizedImageIsRefused := by
  intro p init image hlow hhigh hlen
  have hrange : ¬(p.memSize = 0 ∨ p.memSize > 65536) := by omega
  rw [startOfRun, if_neg hrange, if_pos hlen]

end Sys2Proof.Machine
end

section
/-! PROOFS. Decoding an instruction's own bytes (30_encoding.md R82 to R95), by the number of its bytes. -/

namespace Sys2Proof

section Forms

variable {pol : UndefPolicy} {op : Byte} {i : Instr} (rest : List Byte)

/-- A stream that holds as many bytes as the opcode fixes decodes to the instruction of its first three. -/
theorem decode_of_length_le {bytes : List Byte} (hlen : lengthOf pol op ≤ bytes.length + 1) :
    decode pol (op :: bytes) =
      .ok (decodeOp pol op (bytes.getD 0 0) (bytes.getD 1 0), (op :: bytes).drop (lengthOf pol op)) := by
  rw [decode_cons, if_neg (Nat.not_lt.mpr hlen)]

/-- An instruction without an immediate. -/
theorem decode_one (hdec : decodeOp pol op 0 0 = i) (hi : i.length = 1) : decode pol ([op] ++ rest) = .ok (i, rest) := by
  have hlen : lengthOf pol op = 1 := by rw [← hi, ← hdec, decodeOp_length]
  rw [List.singleton_append, decode_of_length_le (by omega), decodeOp_of_length_one hlen, hdec, hlen]
  rfl

/-- An instruction with a byte. -/
theorem decode_two {d8 : Byte} (hdec : decodeOp pol op d8 0 = i) (hi : i.length = 2) :
    decode pol ([op, d8] ++ rest) = .ok (i, rest) := by
  have hlen : lengthOf pol op = 2 := by rw [← hi, ← hdec, decodeOp_length]
  have hbytes : [op, d8] ++ rest = op :: d8 :: rest := rfl
  rw [hbytes, decode_of_length_le (by simp [hlen]), decodeOp_of_length_two hlen, List.getD_cons_zero, hdec, hlen]
  rfl

/-- An instruction with a word. The opcode reads it as the word of its two bytes. -/
theorem decode_word {f : Word → Instr} (hdec : ∀ hi lo, decodeOp pol op lo hi = f (wordOf hi lo)) (w : Word)
    (hi : (f w).length = 3) : decode pol (withWord op w ++ rest) = .ok (f w, rest) := by
  have hop : decodeOp pol op (loByte w) (hiByte w) = f w := by rw [hdec, wordOf_hiByte_loByte]
  have hlen : lengthOf pol op = 3 := by rw [← hi, ← hop, decodeOp_length]
  have hbytes : withWord op w ++ rest = op :: loByte w :: hiByte w :: rest := rfl
  rw [hbytes, decode_of_length_le (by simp [hlen]), hlen]
  exact congrArg (fun j => Decoded.ok (j, rest)) hop

end Forms

theorem decodeOp_rst (pol : UndefPolicy) (n : BitVec 3) : decodeOp pol (opcodeOf 3 n 7) 0 0 = .rst n := by
  revert n
  cases pol <;> decide

theorem decodeOp_starNop {pol : UndefPolicy} {u : UndefOp} (h : (Instr.starNop u).wf pol = true) :
    decodeOp pol u.code 0 0 = .starNop u := by
  revert h
  cases pol <;> cases u <;> decide

theorem decodeOp_starCall {u : UndefOp} (h : u.callsWhenAliased = true) (hi lo : Byte) :
    decodeOp .aliased u.code lo hi = .starCall u (wordOf hi lo) := by
  cases u with
  | xDD | xED | xFD => rfl
  | x08 | x10 | x18 | x20 | x28 | x30 | x38 | xCB | xD9 => cases h

/-- R82 to R95: the bytes of an instruction decode to it, and the bytes after them are left. -/
theorem decode_encode {pol : UndefPolicy} {i : Instr} (hwf : i.wf pol = true) (rest : List Byte) :
    decode pol (encode i ++ rest) = .ok (i, rest) := by
  cases i with
  | movRR dst src => cases dst <;> cases src <;> exact decode_one rest rfl rfl
  | movRM r | movMR r => cases r <;> exact decode_one rest rfl rfl
  | mvi dst d8 => rcases dst with r | _ <;> [cases r; skip] <;> exact decode_two rest rfl rfl
  | lxi rp w => cases rp <;> exact decode_word rest (fun _ _ => rfl) w rfl
  | ldax rp | stax rp => cases rp <;> exact decode_one rest rfl rfl
  | inx rp | dcx rp | dad rp => cases rp <;> exact decode_one rest rfl rfl
  | push rp | pop rp => cases rp <;> exact decode_one rest rfl rfl
  | add x | adc x | sub x | sbb x | cmp x | ana x | xra x | ora x | inr x | dcr x =>
    rcases x with r | _ <;> [cases r; skip] <;> exact decode_one rest rfl rfl
  | adi _ | aci _ | sui _ | sbi _ | cpi _ | ani _ | xri _ | ori _ | inp _ | out _ => exact decode_two rest rfl rfl
  | lda w | sta w | lhld w | shld w | jmp w | jnz w | jz w | jnc w | jc w | jpo w | jpe w | jp w | jm w
  | call w | cnz w | cz w | cnc w | cc w | cpo w | cpe w | cp w | cm w =>
    exact decode_word rest (fun _ _ => rfl) w rfl
  | xchg | daa | rlc | rrc | ral | rar | cma | cmc | stc | ret | rnz | rz | rnc | rc | rpo | rpe | rp | rm | pchl
  | xthl | sphl | ei | di | hlt | nop => exact decode_one rest rfl rfl
  | rst n => exact decode_one rest (decodeOp_rst pol n) rfl
  | starNop u => exact decode_one rest (decodeOp_starNop hwf) rfl
  | starJmp w =>
    obtain rfl : pol = .aliased := by simpa [Instr.wf] using hwf
    exact decode_word rest (fun _ _ => rfl) w rfl
  | starRet =>
    obtain rfl : pol = .aliased := by simpa [Instr.wf] using hwf
    exact decode_one rest rfl rfl
  | starCall u w =>
    obtain ⟨rfl, hu⟩ : pol = .aliased ∧ u.callsWhenAliased = true := by simpa [Instr.wf] using hwf
    exact decode_word rest (decodeOp_starCall hu) w rfl

/-- R80, R82: an instruction has as many bytes as its length says. -/
theorem encode_length {pol : UndefPolicy} {i : Instr} (hwf : i.wf pol = true) : (encode i).length = i.length := by
  obtain ⟨hle, hdrop⟩ := decode_ok_drop (decode_encode hwf [])
  rw [List.append_nil] at hle hdrop
  exact Nat.le_antisymm (List.drop_eq_nil_iff.mp hdrop.symm) hle

/-- R90, R94: an instruction has a first byte, and it fixes the instruction's length. -/
theorem encode_eq_cons {pol : UndefPolicy} {i : Instr} (hwf : i.wf pol = true) :
    ∃ op tail, encode i = op :: tail ∧ lengthOf pol op = i.length := by
  have hdec := decode_encode hwf []
  rw [List.append_nil] at hdec
  cases he : encode i with
  | nil => rw [he] at hdec; cases hdec
  | cons op tail =>
    rw [he, decode_cons] at hdec
    split at hdec
    · cases hdec
    · obtain ⟨hi, -⟩ := Prod.mk.inj (Decoded.ok.inj hdec)
      exact ⟨op, tail, rfl, by rw [← hi, decodeOp_length]⟩

/-- R80: the longest instruction has three bytes. -/
theorem Instr.length_le_three {pol : UndefPolicy} {i : Instr} (hwf : i.wf pol = true) : i.length ≤ 3 := by
  obtain ⟨op, -, -, hlen⟩ := encode_eq_cons hwf
  have := lengthOf_cases pol op
  omega

/-- R96: a stream that begins with an instruction's first byte and is shorter than the instruction does not decode. -/
theorem decode_of_length_lt {pol : UndefPolicy} {i : Instr} (hwf : i.wf pol = true) {bytes : List Byte}
    (hlen : bytes.length < i.length) (hhead : ∀ b ∈ bytes.head?, (encode i)[0]? = some b) :
    decode pol bytes = .error .incompleteInstruction := by
  cases bytes with
  | nil => rfl
  | cons b rest =>
    obtain ⟨op, tail, hop, hi⟩ := encode_eq_cons hwf
    obtain rfl : op = b := by simpa [hop] using hhead b rfl
    rw [decode_cons, hi, if_pos (by simpa using hlen)]

end Sys2Proof
end

section
/-! PROOFS. The fetch of an instruction whose bytes stand in memory at pc (40_execution_cycle.md R121 to R124), and bytes
loaded into memory (20_memory.md R62). -/

namespace Sys2Proof.Machine

variable {s : State}

/-- An address past the next one, counted from it. -/
theorem add_one_add_ofNat (a : Word) (k : Nat) : a + 1 + BitVec.ofNat 16 k = a + BitVec.ofNat 16 (k + 1) := by
  rw [BitVec.add_assoc, Nat.add_comm, BitVec.ofNat_add]
  rfl

/-! ### The window -/

/-- R121: the window depends on the parameters alone. -/
theorem State.inWindow_congr {t : State} (h : t.params = s.params) (a : Word) : t.inWindow a = s.inWindow a := by
  simp only [State.inWindow, h]

/-- R121: bytes that stand in memory from an address on, all of them in the window, are the first that the fetch reads. -/
theorem State.windowBytes_of_bytes {bytes : List Byte} {a : Word} {n : Nat} (hn : bytes.length ≤ n)
    (hmem : ∀ (k : Nat) (v : Byte), bytes[k]? = some v → s.memRead (a + BitVec.ofNat 16 k) = v)
    (hwin : ∀ k : Nat, k < bytes.length → s.inWindow (a + BitVec.ofNat 16 k) = true) :
    ∃ rest, s.windowBytes a n = bytes ++ rest := by
  induction bytes generalizing a n with
  | nil => exact ⟨_, rfl⟩
  | cons v bytes ih =>
    obtain _ | n := n
    · cases hn
    · obtain ⟨rest, hrest⟩ := ih (a := a + 1) (Nat.le_of_succ_le_succ hn)
        (fun k w hk => by rw [add_one_add_ofNat]; exact hmem (k + 1) w hk)
        (fun k hk => by rw [add_one_add_ofNat]; exact hwin (k + 1) (Nat.succ_lt_succ hk))
      have hhead : s.memRead a = v := by simpa using hmem 0 v rfl
      have hin : s.inWindow a = true := by simpa using hwin 0 (Nat.succ_pos _)
      exact ⟨rest, by rw [State.windowBytes_succ, if_pos hin, hhead, hrest, List.cons_append]⟩

/-- R121: the fetch reads no byte past one outside the window. -/
theorem State.length_windowBytes_le {a : Word} {k : Nat} (n : Nat)
    (hout : s.inWindow (a + BitVec.ofNat 16 k) = false) : (s.windowBytes a n).length ≤ k := by
  induction n generalizing a k with
  | zero => exact Nat.zero_le k
  | succ n ih =>
    rw [State.windowBytes_succ]
    split
    · rename_i hin
      obtain _ | k := k
      · simp [hin] at hout
      · rw [← add_one_add_ofNat] at hout
        exact Nat.succ_le_succ (ih hout)
    · exact Nat.zero_le k

/-- The first byte that the fetch reads is the one at the address. -/
theorem State.head?_windowBytes {a : Word} {n : Nat} {b : Byte} (h : b ∈ (s.windowBytes a n).head?) :
    s.memRead a = b := by
  cases n with
  | zero => cases h
  | succ n =>
    rw [State.windowBytes_succ] at h
    split at h
    · exact Option.some.inj h
    · cases h

/-! ### The fetch -/

section AtPc

variable {i : Instr} (hwf : i.wf s.params.undefPolicy = true)
  (hbytes : ∀ (k : Nat) (v : Byte), (encode i)[k]? = some v → s.memRead (s.pc + BitVec.ofNat 16 k) = v)
include hwf hbytes

/-- R122: an instruction that stands at pc inside the window is the one fetched. -/
theorem State.fetch_of_inWindow (hwin : ∀ k : Nat, k < i.length → s.inWindow (s.pc + BitVec.ofNat 16 k) = true) :
    s.fetch = .ok i := by
  have hlen := encode_length hwf
  obtain ⟨rest, hrest⟩ : ∃ rest, s.fetchBytes = encode i ++ rest :=
    State.windowBytes_of_bytes (hlen ▸ Instr.length_le_three hwf) hbytes (hlen ▸ hwin)
  rw [State.fetch, hrest, decode_encode hwf]

/-- R123: an instruction that stands at pc with a byte outside the window is not fetched. -/
theorem State.fetch_of_not_inWindow {k : Nat} (hk : k < i.length)
    (hout : s.inWindow (s.pc + BitVec.ofNat 16 k) = false) : s.fetch = .error .incompleteInstruction := by
  have hlen : s.fetchBytes.length < i.length := Nat.lt_of_le_of_lt (State.length_windowBytes_le 3 hout) hk
  obtain ⟨op, tail, hop, -⟩ := encode_eq_cons hwf
  have hfirst : s.memRead s.pc = op := by simpa using hbytes 0 op (by rw [hop]; rfl)
  have hhead : ∀ b ∈ s.fetchBytes.head?, (encode i)[0]? = some b := fun b hb => by
    rw [hop, ← State.head?_windowBytes hb, hfirst]
    rfl
  rw [State.fetch, decode_of_length_lt hwf hlen hhead]

/-- R124, R132: a step runs an instruction that stands at pc inside the window, with pc past it. -/
theorem step_of_inWindow (hrun : s.run = .running)
    (hwin : ∀ k : Nat, k < i.length → s.inWindow (s.pc + BitVec.ofNat 16 k) = true) :
    step s = exec i (s.setPc (s.pc + BitVec.ofNat 16 i.length)) := by
  rw [step_running hrun, State.fetch_of_inWindow hwf hbytes hwin]
  rfl

/-- R123, R132: a step faults at an instruction that stands at pc with a byte outside the window. -/
theorem step_of_not_inWindow (hrun : s.run = .running) {k : Nat} (hk : k < i.length)
    (hout : s.inWindow (s.pc + BitVec.ofNat 16 k) = false) : step s = .next (s.raise .incompleteInstruction) := by
  rw [step_running hrun, State.fetch_of_not_inWindow hwf hbytes hk hout]

end AtPc

/-- R350, R351: an instruction faults at its fetch only, because execution completes and leaves the state running or
halted. -/
theorem faultsAtFetchOnly (i : Instr) : FaultsAtFetchOnly i := by
  intro s hrun hwf hbytes
  refine ⟨fun hwin => ?_, fun k hk hout => step_of_not_inWindow hwf hbytes hrun hk hout⟩
  obtain ⟨t, ht, hkept⟩ := exec_run i (s.setPc (s.pc + BitVec.ofNat 16 i.length))
  refine ⟨t, (step_of_inWindow hwf hbytes hrun hwin).trans ht, ht, ?_⟩
  obtain hsame | ⟨-, hhalt⟩ := hkept
  · exact .inl (hsame.trans hrun)
  · exact .inr hhalt

/-! ### Loaded bytes -/

/-- R62: loading bytes writes memory and nothing else. -/
theorem State.loadBytes_frame (s : State) (a : Word) (bytes : List Byte) :
    (s.loadBytes a bytes).pc = s.pc ∧ (s.loadBytes a bytes).run = s.run ∧
    (s.loadBytes a bytes).params = s.params := by
  induction bytes generalizing s a with
  | nil => exact ⟨rfl, rfl, rfl⟩
  | cons v rest ih => exact ih (s.memWrite a v) (a + 1)

/-- R62: a byte whose index no loaded one has is as it was. -/
theorem State.memRead_loadBytes_of_ne (hwf : Memory.wf s.mem = true) {a b : Word} {bytes : List Byte}
    (hne : ∀ k : Nat, k < bytes.length → s.phys b ≠ s.phys (a + BitVec.ofNat 16 k)) :
    (s.loadBytes a bytes).memRead b = s.memRead b := by
  induction bytes generalizing s a with
  | nil => rfl
  | cons v rest ih =>
    have hfirst : s.phys b ≠ s.phys a := by simpa using hne 0 (Nat.succ_pos _)
    calc ((s.memWrite a v).loadBytes (a + 1) rest).memRead b
        = (s.memWrite a v).memRead b := ih (Memory.wf_write hwf _ _) fun k hk => by
          rw [add_one_add_ofNat]
          exact hne (k + 1) (Nat.succ_lt_succ hk)
      _ = s.memRead b := by rw [State.memRead_memWrite hwf, if_neg hfirst]

/-- R62: a loaded byte stands at its address, unless a later one has its index. -/
theorem State.memRead_loadBytes (hwf : Memory.wf s.mem = true) {a : Word} {bytes : List Byte} {k : Nat} {v : Byte}
    (hk : bytes[k]? = some v)
    (hne : ∀ j : Nat, k < j → j < bytes.length →
      s.phys (a + BitVec.ofNat 16 k) ≠ s.phys (a + BitVec.ofNat 16 j)) :
    (s.loadBytes a bytes).memRead (a + BitVec.ofNat 16 k) = v := by
  induction bytes generalizing s a k with
  | nil => simp at hk
  | cons w rest ih =>
    have hwf' : Memory.wf (s.memWrite a w).mem = true := Memory.wf_write hwf _ _
    cases k with
    | zero =>
      obtain rfl : w = v := Option.some.inj hk
      calc ((s.memWrite a w).loadBytes (a + 1) rest).memRead (a + BitVec.ofNat 16 0)
          = (s.memWrite a w).memRead (a + BitVec.ofNat 16 0) :=
            State.memRead_loadBytes_of_ne hwf' fun j hj => by
              rw [add_one_add_ofNat]
              exact hne (j + 1) (Nat.succ_pos j) (Nat.succ_lt_succ hj)
        _ = w := by rw [State.memRead_memWrite hwf, if_pos (by simp)]
    | succ k =>
      rw [← add_one_add_ofNat] at hne ⊢
      refine ih hwf' hk fun j hkj hj => ?_
      rw [add_one_add_ofNat a j]
      exact hne (j + 1) (Nat.succ_lt_succ hkj) (Nat.succ_lt_succ hj)

/-- Settles O13: the loaded bytes stand at pc, and the load moves neither pc nor the window, so the step runs them. -/
theorem storedInstructionRunsNext : Obligations.StoredInstructionRunsNext := by
  intro s i hinv hrun hwf hwin hne
  obtain ⟨-, hmem, -⟩ := hinv
  obtain ⟨hpc, hrun', hparams⟩ := s.loadBytes_frame s.pc (encode i)
  have hlen := encode_length hwf
  have hbytes : ∀ (k : Nat) (v : Byte), (encode i)[k]? = some v →
      (s.loadBytes s.pc (encode i)).memRead (s.pc + BitVec.ofNat 16 k) = v := fun k v hk =>
    State.memRead_loadBytes hmem hk fun j hkj hj => hne k j hkj (hlen ▸ hj)
  have hstep := step_of_inWindow (s := s.loadBytes s.pc (encode i)) (by rwa [hparams]) (by rwa [hpc])
    (hrun'.trans hrun) fun k hk => by rw [hpc, State.inWindow_congr hparams]; exact hwin k hk
  rwa [hpc] at hstep

end Sys2Proof.Machine
end

section
/-! PROOFS. IN and OUT (47_io_machine_control.md R321, R322) over the port interface (20_memory.md R63 to R65). -/

namespace Sys2Proof.Machine

variable {s : State}

theorem State.portAnswer_absent (h : s.params.portHandler = .absent) (port : Byte) :
    s.portAnswer port = Config.portSentinel := by
  simp [State.portAnswer, h]

/-- R65: a handler's answer is the next one it names, or else a free value. -/
theorem State.portAnswer_present {answers : List Byte} (h : s.params.portHandler = .present answers) (port : Byte) :
    s.portAnswer port = (answers[s.readCount]?).getD (Config.portAnswer s.portLog port) := by
  cases hn : answers[s.readCount]? <;> simp [State.portAnswer, h, hn]

theorem State.callPort_absent (h : s.params.portHandler = .absent) (e : PortEvent) : s.callPort e = s := by
  simp [State.callPort, h]

theorem State.callPort_of_ne_absent (h : s.params.portHandler ≠ .absent) (e : PortEvent) :
    s.callPort e = { s with portLog := s.portLog ++ [e] } := by
  obtain ⟨habs, -⟩ | ⟨-, he⟩ := s.callPort_cases e
  · exact absurd habs h
  · exact he

/-- R65: a call of the handler touches the port log alone. -/
theorem Frame.callPort_of_ports {w : May} (hw : w.ports = true) (s : State) (e : PortEvent) :
    Frame w s (s.callPort e) := by
  obtain ⟨-, he⟩ | ⟨-, he⟩ := s.callPort_cases e <;> rw [he]
  · exact Frame.refl w s
  · exact Frame.of_cells rfl rfl rfl rfl (by simp [hw])

/-- Settles O58: each clause is the port operation's own law for a handler that is absent or present. -/
theorem inAndOutUseThePort : Obligations.InAndOutUseThePort := by
  intro port s
  refine ⟨⟨rfl, faultsAtFetchOnly _, _, rfl, fun habs => ?_, fun answers hpres => ?_, ?_⟩,
    ⟨rfl, faultsAtFetchOnly _, _, rfl, fun habs => State.callPort_absent habs _, fun hne => ?_, ?_⟩⟩
  · exact ⟨State.portAnswer_absent habs port, by rw [State.writeReg_portLog, State.callPort_absent habs]⟩
  · have hlog : (s.callPort (.read port)).portLog = s.portLog ++ [.read port] := by
      rw [State.callPort_of_ne_absent (by simp [hpres])]
    refine ⟨State.portAnswer_present hpres port, hlog, ?_⟩
    rw [State.readCount, State.writeReg_portLog, hlog, List.countP_append]
    rfl
  · exact (Frame.callPort_of_ports rfl s _).then_writeReg (List.mem_singleton_self Reg.a) _
  · rw [State.callPort_of_ne_absent hne]
  · exact Frame.callPort_of_ports rfl s _

end Sys2Proof.Machine
end

section
/-! PROOFS. The opcode map read backwards (30_encoding.md R89 to R96): the bytes of a decoded instruction are those of the
stream, and the length classes. -/

namespace Sys2Proof

/-- R82, R83: the low byte of the word comes first. -/
theorem withWord_wordOf (op hi lo : Byte) : withWord op (wordOf hi lo) = [op, lo, hi] := by
  rw [withWord, loByte_wordOf, hiByte_wordOf]

/-- R80: an instruction has a byte. -/
theorem Instr.length_pos {pol : UndefPolicy} {i : Instr} (hwf : i.wf pol = true) : 0 < i.length := by
  obtain ⟨op, -, -, hlen⟩ := encode_eq_cons hwf
  have := lengthOf_cases pol op
  omega

/-! ### The instruction of a one-, two- or three-byte opcode -/

/-- R93: an opcode without operand bytes names an instruction of the table, whose only byte it is. -/
theorem decodeOp_roundtrip_one {pol : UndefPolicy} {op : Byte} (h : lengthOf pol op = 1) :
    (decodeOp pol op 0 0).wf pol = true ∧ encode (decodeOp pol op 0 0) = [op] := by
  revert op
  cases pol <;> decide

/-- R93: an opcode with a byte, one of the eighteen at a time. -/
theorem decodeOp_roundtrip_two (pol : UndefPolicy) {op : Byte} (h : op ∈ twoByteOpcodes) (d8 : Byte) :
    (decodeOp pol op d8 0).wf pol = true ∧ encode (decodeOp pol op d8 0) = [op, d8] := by
  fin_cases h <;> exact ⟨rfl, rfl⟩

/-- R93: an opcode with a word, low byte first, one of the list at a time. -/
theorem decodeOp_roundtrip_three {pol : UndefPolicy} {op : Byte} (h : op ∈ threeByteOpcodes pol) (lo hi : Byte) :
    (decodeOp pol op lo hi).wf pol = true ∧ encode (decodeOp pol op lo hi) = [op, lo, hi] := by
  rw [← withWord_wordOf]
  cases pol <;> fin_cases h <;> exact ⟨rfl, rfl⟩

/-! ### The length classes -/

theorem lengthOf_eq_two_iff {pol : UndefPolicy} {op : Byte} : lengthOf pol op = 2 ↔ op ∈ twoByteOpcodes := by
  unfold lengthOf
  split
  · simp [*]
  · split <;> simp [*]

/-- R90: the classes are disjoint. -/
theorem not_mem_two_of_mem_three {pol : UndefPolicy} {op : Byte} (h : op ∈ threeByteOpcodes pol) :
    op ∉ twoByteOpcodes := by
  revert op
  cases pol <;> decide

theorem lengthOf_eq_three_iff {pol : UndefPolicy} {op : Byte} : lengthOf pol op = 3 ↔ op ∈ threeByteOpcodes pol := by
  constructor
  · unfold lengthOf
    split <;> [simp; split] <;> simp [*]
  · intro h
    rw [lengthOf, if_neg (not_mem_two_of_mem_three h), if_pos h]

/-- Settles O5: `lengthOf` tests the two lists in order, and the one-byte opcodes of each policy are counted. -/
theorem lengthClassesOfTheOpcodes : Obligations.LengthClassesOfTheOpcodes := by
  refine ⟨fun _ _ => lengthOf_eq_two_iff, fun _ => lengthOf_eq_three_iff, fun op => ?_, lengthOf_cases,
    by decide +kernel, by decide +kernel⟩
  rw [lengthOf_eq_three_iff, lengthOf_eq_three_iff]
  exact List.mem_append

/-! ### From a decoded instruction to its bytes -/

/-- R89, R93: an opcode byte names an instruction of the table, whose bytes are that byte and the operand bytes its length
takes. -/
theorem decodeOp_roundtrip (pol : UndefPolicy) (op b2 b3 : Byte) :
    (decodeOp pol op b2 b3).wf pol = true ∧
      encode (decodeOp pol op b2 b3) = [op, b2, b3].take (lengthOf pol op) := by
  obtain h | h | h := lengthOf_cases pol op <;> rw [h]
  · rw [decodeOp_of_length_one h]
    exact decodeOp_roundtrip_one h
  · rw [decodeOp_of_length_two h]
    exact decodeOp_roundtrip_two pol (lengthOf_eq_two_iff.mp h) b2
  · exact decodeOp_roundtrip_three (lengthOf_eq_three_iff.mp h) b2 b3

/-- The operand bytes that the decoder reads are the first bytes of the stream, where it is long enough. -/
theorem take_lengthOf (pol : UndefPolicy) {op : Byte} {rest : List Byte} (h : lengthOf pol op ≤ rest.length + 1) :
    [op, rest.getD 0 0, rest.getD 1 0].take (lengthOf pol op) = (op :: rest).take (lengthOf pol op) := by
  obtain hlen | hlen | hlen := lengthOf_cases pol op <;> rw [hlen] at h ⊢
  · rfl
  · obtain _ | ⟨b2, rest⟩ := rest
    · simp at h
    · rfl
  · obtain _ | ⟨b2, _ | ⟨b3, rest⟩⟩ := rest
    · simp at h
    · simp at h
    · rfl

/-- R93, R95: whatever decodes is an instruction of the table, and its bytes are the ones decoded. -/
theorem encode_of_decode {pol : UndefPolicy} {bytes rest : List Byte} {i : Instr}
    (h : decode pol bytes = .ok (i, rest)) : i.wf pol = true ∧ encode i ++ rest = bytes := by
  cases bytes with
  | nil => cases h
  | cons op tail =>
    rw [decode_cons] at h
    split at h
    · cases h
    · rename_i hlen
      obtain ⟨rfl, rfl⟩ := Prod.mk.inj (Decoded.ok.inj h)
      obtain ⟨hwf, henc⟩ := decodeOp_roundtrip pol op (tail.getD 0 0) (tail.getD 1 0)
      exact ⟨hwf, by rw [henc, take_lengthOf pol (Nat.le_of_not_lt hlen), List.take_append_drop]⟩

/-- Settles O2, from the decoding of each form's own bytes. -/
theorem decodeOfEncodeIsTheInstruction : Obligations.DecodeOfEncodeIsTheInstruction :=
  fun _ _ rest hwf => decode_encode hwf rest

/-- Settles O3, from the opcode map read backwards. -/
theorem encodeOfDecodeIsTheStream : Obligations.EncodeOfDecodeIsTheStream :=
  fun _ _ _ _ h => encode_of_decode h

/-- Settles O1, by running the decoder on the eleven words. -/
theorem sampleWordsDecode : Obligations.SampleWordsDecode := by
  unfold Obligations.SampleWordsDecode
  decide

/-! ### The decoder with a cursor -/

theorem decodeAt_of_length_le (pol : UndefPolicy) {stream : List Byte} {cursor : Nat} (h : stream.length ≤ cursor) :
    decodeAt pol stream cursor = .error .incompleteInstruction := by
  rw [decodeAt, List.drop_of_length_le h]

theorem decodeAt_of_drop_eq_cons (pol : UndefPolicy) {stream rest : List Byte} {cursor : Nat} {op : Byte}
    (h : stream.drop cursor = op :: rest) :
    decodeAt pol stream cursor =
      if stream.length < cursor + lengthOf pol op then .error .incompleteInstruction
      else .ok (lookup pol op, rest.take (lengthOf pol op - 1), cursor + lengthOf pol op) := by
  rw [decodeAt, h]

/-- Settles O4: by whether a byte stands at the cursor, and then whether the opcode's bytes end inside the stream. -/
theorem decodeFailsExactlyWhenTheStreamIsShort : Obligations.DecodeFailsExactlyWhenTheStreamIsShort := by
  intro pol stream cursor
  refine ⟨⟨fun herr => ?_, ?_⟩, fun op rest hdrop hlen => ?_⟩
  · cases hdrop : stream.drop cursor with
    | nil => exact .inl (List.drop_eq_nil_iff.mp hdrop)
    | cons op rest =>
      rw [decodeAt_of_drop_eq_cons pol hdrop] at herr
      split at herr
      · exact .inr ⟨op, rest, rfl, ‹_›⟩
      · cases herr
  · rintro (hend | ⟨op, rest, hdrop, hshort⟩)
    · exact decodeAt_of_length_le pol hend
    · rw [decodeAt_of_drop_eq_cons pol hdrop, if_pos hshort]
  · rw [decodeAt_of_drop_eq_cons pol hdrop, if_neg (Nat.not_lt.mpr hlen)]

end Sys2Proof
end

section
/-! PROOFS. The undefined opcodes (30_encoding.md R92, R327). -/

namespace Sys2Proof.Machine

/-- R273: an instruction that pushes the return address and jumps. -/
theorem callsTo_of_exec {i : Instr} {s : State} {target : Word} (hwf : Memory.wf s.mem = true)
    (hexec : exec i s = .next (s.callTo target)) : CallsTo i s target := by
  have hlow : (s.callTo target).memRead (s.sp - 2) = loByte s.pc := by
    rw [State.callTo, State.setPc_memRead, State.memRead_push16 hwf, if_pos rfl]
  have hhigh : (s.callTo target).memRead (s.sp - 1) =
      if s.phys (s.sp - 1) = s.phys (s.sp - 2) then loByte s.pc else hiByte s.pc := by
    rw [State.callTo, State.setPc_memRead, State.memRead_push16 hwf, if_pos rfl]
  exact ⟨_, hexec, rfl, s.push16_sp_eq s.pc, hlow, hhigh, Frame.callTo hwf target⟩

/-- R275: an instruction that pops pc. -/
theorem returns_of_exec {i : Instr} {s : State} (hexec : exec i s = .next s.returnFrom) : Returns i s :=
  ⟨_, hexec, rfl, rfl, Frame.returnFrom s⟩

/-- Settles O6: each undefined opcode's word is the encoding of an instruction that the policy has, and execution is the
aliased instruction's. -/
theorem undefinedOpcodesFollowThePolicy : Obligations.UndefinedOpcodesFollowThePolicy := by
  refine ⟨fun u rest => decode_encode (i := .starNop u) rfl rest, fun u rest hu => ?_, fun lo hi rest => ?_,
    decode_encode (i := .starRet) rfl, fun u lo hi rest hu => ?_, fun u a16 s => ?_⟩
  · have hwf : (Instr.starNop u).wf .aliased = true := by fin_cases hu <;> rfl
    exact decode_encode hwf rest
  · have hdec := decode_encode (pol := .aliased) (i := .starJmp (wordOf hi lo)) rfl rest
    rwa [encode, withWord_wordOf] at hdec
  · have hwf : (Instr.starCall u (wordOf hi lo)).wf .aliased = true := by fin_cases hu <;> rfl
    have hdec := decode_encode hwf rest
    rwa [encode, withWord_wordOf] at hdec
  · exact ⟨rfl, rfl, rfl, rfl, rfl, returns_of_exec rfl, fun hwf => callsTo_of_exec hwf rfl, faultsAtFetchOnly _,
      faultsAtFetchOnly _, faultsAtFetchOnly _, faultsAtFetchOnly _⟩

end Sys2Proof.Machine
end

section
/-! PROOFS. The disassembler's listing (30_encoding.md R100). -/

namespace Sys2Proof.Machine

/-- R100: `Lists pol a bytes records report` says that `records` and `report` list the bytes, the first of them at `a`. -/
inductive Lists (pol : UndefPolicy) : Word → List Byte → List DisasmRecord → Option TrailingReport → Prop
  /-- No byte is left. -/
  | done (a : Word) : Lists pol a [] [] none
  /-- The bytes left end inside an instruction. -/
  | tail {a : Word} {bytes : List Byte} (hne : bytes ≠ []) (hdec : decode pol bytes = .error .incompleteInstruction) :
      Lists pol a bytes [] (some { address := a, bytes := bytes, reason := .incompleteInstruction })
  /-- An instruction stands first, and the listing goes on after it. -/
  | record {a : Word} {i : Instr} {rest : List Byte} {records : List DisasmRecord} {report : Option TrailingReport}
      (hwf : i.wf pol = true) (hrest : Lists pol (a + BitVec.ofNat 16 (encode i).length) rest records report) :
      Lists pol a (encode i ++ rest) ({ address := a, text := instrText i, bytes := encode i } :: records) report

/-- R100: a disassembler that may make as many entries as there are bytes lists them all. -/
theorem lists_disasmFrom (pol : UndefPolicy) (a : Word) {n : Nat} {bytes : List Byte} (hn : bytes.length ≤ n) :
    Lists pol a bytes (disasmFrom pol a n bytes).1 (disasmFrom pol a n bytes).2 := by
  induction n generalizing a bytes with
  | zero =>
    obtain rfl := List.eq_nil_of_length_eq_zero (Nat.le_zero.mp hn)
    exact .done a
  | succ n ih =>
    cases bytes with
    | nil => exact .done a
    | cons op bytes =>
      rw [disasmFrom]
      split
      · rename_i r hdec
        cases r
        exact .tail (List.cons_ne_nil op bytes) hdec
      · rename_i i rest hdec
        obtain ⟨hwf, henc⟩ := encode_of_decode hdec
        have hlen := encode_length hwf
        have hpos := Instr.length_pos hwf
        have hrest : rest.length ≤ n := by
          have := congrArg List.length henc
          simp only [List.length_append, List.length_cons] at this hn
          omega
        rw [← henc, List.take_left' hlen, ← hlen]
        exact .record hwf (ih _ hrest)

section Listing

variable {pol : UndefPolicy} {a : Word} {bytes : List Byte} {records : List DisasmRecord}
  {report : Option TrailingReport} (h : Lists pol a bytes records report)
include h

/-- R100: the listing holds every byte, in order. -/
theorem Lists.bytes_eq : records.flatMap (fun d => d.bytes) ++ report.elim [] (fun d => d.bytes) = bytes := by
  induction h with
  | done => rfl
  | tail => rfl
  | record _ _ ih => rw [List.flatMap_cons, List.append_assoc, ih]

/-- R99, R100: a record is at the place of its bytes and is the text of the instruction they decode to. -/
theorem Lists.getElem?_records {k : Nat} {d : DisasmRecord} (hk : records[k]? = some d) :
    d.address = a + BitVec.ofNat 16 ((records.take k).flatMap (fun e => e.bytes)).length ∧
      ∃ i, decode pol d.bytes = .ok (i, []) ∧ d.text = instrText i := by
  induction h generalizing k with
  | done => simp at hk
  | tail => simp at hk
  | @record a i _ _ _ hwf _ ih =>
    cases k with
    | zero =>
      obtain rfl := Option.some.inj hk
      exact ⟨(BitVec.add_zero a).symm, i, by simpa using decode_encode hwf [], rfl⟩
    | succ k =>
      obtain ⟨haddr, hinstr⟩ := ih hk
      refine ⟨?_, hinstr⟩
      rw [haddr, List.take_succ_cons, List.flatMap_cons, List.length_append, BitVec.ofNat_add, BitVec.add_assoc]

/-- R96, R100: a report is at the place of its bytes, which are a tail that does not decode. -/
theorem Lists.report_spec {d : TrailingReport} (hd : report = some d) :
    d.reason = .incompleteInstruction ∧ decode pol d.bytes = .error .incompleteInstruction ∧ d.bytes ≠ [] ∧
      d.address = a + BitVec.ofNat 16 (records.flatMap (fun e => e.bytes)).length := by
  induction h with
  | done => cases hd
  | @tail a _ hne hdec =>
    obtain rfl := Option.some.inj hd
    exact ⟨rfl, hdec, hne, (BitVec.add_zero a).symm⟩
  | record _ _ ih =>
    obtain ⟨hreason, hdec, hne, haddr⟩ := ih hd
    refine ⟨hreason, hdec, hne, ?_⟩
    rw [haddr, List.flatMap_cons, List.length_append, BitVec.ofNat_add, BitVec.add_assoc]

end Listing

/-- Settles O60: the listing from the cursor on, whose addresses are counted from BASE through the cursor. -/
theorem disassemblyCoversTheStream : Obligations.DisassemblyCoversTheStream := by
  intro pol base stream cursor
  have hn : (stream.drop cursor).length ≤ stream.length := (List.drop_sublist cursor stream).length_le
  have hlists := lists_disasmFrom pol (base + BitVec.ofNat 16 cursor) hn
  refine ⟨_, _, rfl, hlists.bytes_eq, fun k d hk => ?_, fun d hd => ?_⟩
  · rw [BitVec.ofNat_add, ← BitVec.add_assoc]
    exact hlists.getElem?_records hk
  · rw [BitVec.ofNat_add, ← BitVec.add_assoc]
    exact hlists.report_spec hd

end Sys2Proof.Machine
end

section
/-! PROOFS. The step by what the fetch answers (40_execution_cycle.md R120 to R132): the instruction at pc, the fetch
window, and the run states. -/

namespace Sys2Proof.Machine

variable {s : State}

/-- R121: the window in numbers, an address counted from BASE modulo 2^16. -/
theorem State.inWindow_iff (a : Word) : s.inWindow a = true ↔
    (s.params.fetchWindow = .memory ∨ (a.toNat + 65536 - s.params.base.toNat) % 65536 < s.params.imageLen) := by
  cases h : s.params.fetchWindow with
  | memory => simp [s.inWindow_memory h]
  | image =>
    have ha := a.isLt
    have hbase := s.params.base.isLt
    have hoffset : (a - s.params.base).toNat = (a.toNat + 65536 - s.params.base.toNat) % 65536 := by
      rw [BitVec.toNat_sub]
      omega
    simp [State.inWindow, h, hoffset]

/-- The instruction of the three bytes from pc on, whether or not the fetch may read them. -/
def State.instrAtPc (s : State) : Instr :=
  decodeOp s.params.undefPolicy (s.memRead s.pc) (s.memRead (s.pc + 1)) (s.memRead (s.pc + 2))

/-- R94: the opcode byte at pc fixes the length. -/
theorem State.instrAtPc_length (s : State) :
    s.instrAtPc.length = lengthOf s.params.undefPolicy (s.memRead s.pc) :=
  decodeOp_length _ _ _ _

theorem State.instrAtPc_wf (s : State) : s.instrAtPc.wf s.params.undefPolicy = true :=
  (decodeOp_roundtrip _ _ _ _).1

/-- R93: the bytes of the instruction at pc stand in memory from pc on. -/
theorem State.memRead_of_encode_instrAtPc (k : Nat) (v : Byte) (hk : (encode s.instrAtPc)[k]? = some v) :
    s.memRead (s.pc + BitVec.ofNat 16 k) = v := by
  obtain ⟨-, henc⟩ := decodeOp_roundtrip s.params.undefPolicy (s.memRead s.pc) (s.memRead (s.pc + 1))
    (s.memRead (s.pc + 2))
  rw [State.instrAtPc, henc] at hk
  rw [List.getElem?_take] at hk
  split at hk
  · match k, hk with
    | 0, hk => simpa using hk
    | 1, hk | 2, hk => exact Option.some.inj hk
  · cases hk

/-- Settles O8: the instruction of the bytes at pc stands there, so the window decides between running it and the fault. -/
theorem fetchWindowDecidesTheStep : Obligations.FetchWindowDecidesTheStep := by
  intro s hrun
  rw [← s.instrAtPc_length]
  exact ⟨step_of_inWindow s.instrAtPc_wf State.memRead_of_encode_instrAtPc hrun,
    fun _ => step_of_not_inWindow s.instrAtPc_wf State.memRead_of_encode_instrAtPc hrun, State.inWindow_iff⟩

/-- R122: the fetch answers the instruction that the bytes at pc decode to. -/
theorem State.fetch_of_decode {i : Instr} {rest : List Byte}
    (h : decode s.params.undefPolicy s.fetchBytes = .ok (i, rest)) : s.fetch = .ok i := by
  rw [State.fetch, h]

/-- Settles O7: the fetch answers the decoded instruction. -/
theorem stepRunsTheDecodedInstruction : Obligations.StepRunsTheDecodedInstruction := by
  intro s i rest hrun hdec
  rw [step_running hrun, State.fetch_of_decode hdec]
  rfl

/-- Settles O12: a failed fetch has only one reason, and the instruction of a fetch that succeeds keeps the run state
unless it is HLT. -/
theorem runStateTransitions : Obligations.RunStateTransitions := by
  intro s t hstep
  obtain ⟨hrun, ⟨⟨⟩, hfetch, rfl⟩ | ⟨i, hfetch, hexec⟩⟩ := step_cases hstep
  · exact ⟨hrun, .inr (.inr ⟨hfetch, rfl⟩)⟩
  · obtain ⟨t', ht', hkept⟩ := exec_run i (s.advancePc i.length)
    obtain rfl := Host.Outcome.next.inj (hexec.symm.trans ht')
    obtain hsame | ⟨rfl, hhalt⟩ := hkept
    · exact ⟨hrun, .inl (hsame.trans hrun)⟩
    · exact ⟨hrun, .inr (.inl ⟨hhalt, hfetch⟩)⟩

/-- Settles O11: `step` tests the run state first, and stops by name in each terminal one. -/
theorem haltedAndFaultedAreTerminal : Obligations.HaltedAndFaultedAreTerminal :=
  fun _ _ => ⟨fun h => by rw [step, h], fun h => by rw [step, h]⟩

end Sys2Proof.Machine
end

section
/-! PROOFS. The 8-bit ALU (41_alu_flags.md R141 to R148): results and flags in exact arithmetic, and the instructions that
write them to A or to an 8-bit operand (43_arithmetic.md R201 to R216, 44_logical.md R241 to R249). -/

namespace Sys2Proof.Machine

/-! ### S, Z and P of a result -/

/-- The 1 bits of a byte, counted by position or as the digits of its number. -/
theorem countP_getLsbD_eq_onesIn (v : Byte) : (List.range 8).countP (fun k => v.getLsbD k) = onesIn v := by
  have hbit (k : Nat) : v.toNat / 2 ^ k % 2 = (v.getLsbD k).toNat := (Nat.toNat_testBit v.toNat k).symm
  have hones : onesIn v = (v.getLsbD 0).toNat + (v.getLsbD 1).toNat + (v.getLsbD 2).toNat + (v.getLsbD 3).toNat +
      (v.getLsbD 4).toNat + (v.getLsbD 5).toNat + (v.getLsbD 6).toNat + (v.getLsbD 7).toNat := by
    simp only [onesIn, ← hbit, Nat.reducePow, Nat.div_one]
  rw [hones]
  simp only [List.range_succ, List.range_zero, List.nil_append, List.countP_append, List.countP_singleton, Bool.toNat,
    Bool.cond_eq_ite]

/-- R141: parity is even where the number of 1 bits is. -/
theorem evenParity_iff (v : Byte) : evenParity v = true ↔ onesIn v % 2 = 0 := by
  rw [evenParity, countP_getLsbD_eq_onesIn, beq_iff_eq]

/-- R141: bit 7 of a byte is its sign. -/
theorem getLsbD_seven_iff (v : Byte) : v.getLsbD 7 = true ↔ 128 ≤ v.toNat := by
  have hlt := v.isLt
  rw [getLsbD_iff_div_mod]
  omega

theorem beq_zero_iff_toNat (v : Byte) : (v == 0) = true ↔ v.toNat = 0 := by
  rw [beq_iff_eq, ← BitVec.toNat_inj]
  rfl

/-- R141: S, Z and P from a result say its sign, zeroness and parity. -/
theorem szpOf_szp (f : Flags) (v : Byte) : SzpOf (szp f v) v :=
  ⟨getLsbD_seven_iff v, beq_zero_iff_toNat v, evenParity_iff v⟩

theorem szpOf_withFlags (v : Byte) (ac cy : Bool) : SzpOf (withFlags v ac cy).2 (withFlags v ac cy).1 := szpOf_szp _ v

/-! ### Addition and subtraction -/

/-- R142: `add8` in numbers. -/
theorem addFlags_add8 (a b : Byte) (cin : Bool) : AddFlags (add8 a b cin).2 a b cin (add8 a b cin).1 :=
  ⟨BitVec.toNat_ofNat _ 8, decide_eq_true_iff, decide_eq_true_iff, szpOf_withFlags _ _ _⟩

theorem toNat_not (b : Byte) : (~~~b).toNat = 255 - b.toNat := BitVec.toNat_not

theorem lowDigit_not (b : Byte) : lowDigit (~~~b) = 15 - b.toNat % 16 := by
  have hlt := b.isLt
  rw [lowDigit, toNat_not]
  omega

/-- R143: `sub8` in numbers, the complement of a byte being 255 less the byte. -/
theorem subFlags_sub8 (a b : Byte) (bin : Bool) : SubFlags (sub8 a b bin).2 a b bin (sub8 a b bin).1 := by
  have hres : (sub8 a b bin).1.toNat = (a.toNat + (~~~b).toNat + (1 - bin.toNat)) % 256 := BitVec.toNat_ofNat _ 8
  have hac : (sub8 a b bin).2.ac = true ↔ 15 < lowDigit a + lowDigit (~~~b) + (1 - bin.toNat) := decide_eq_true_iff
  rw [toNat_not] at hres
  rw [lowDigit_not] at hac
  exact ⟨hres, decide_eq_true_iff, hac, szpOf_withFlags _ _ _⟩

variable {i : Instr} {s : State} {b : Byte}

/-- R142: an instruction that puts a sum in A. -/
theorem addsToA_of_exec {cin : Bool} (hexec : exec i s = .next (s.setAcc (add8 s.regs.a b cin))) :
    AddsToA i s b cin :=
  ⟨_, hexec, addFlags_add8 _ _ _, Frame.setAcc_all s _⟩

/-- R143: an instruction that puts a difference in A. -/
theorem subtractsFromA_of_exec {bin : Bool} (hexec : exec i s = .next (s.setAcc (sub8 s.regs.a b bin))) :
    SubtractsFromA i s b bin :=
  ⟨_, hexec, subFlags_sub8 _ _ _, Frame.setAcc_all s _⟩

/-- Settles O36: the four instructions put `add8` of their operand and carry in A. -/
theorem additionsSetSumAndFiveFlags : Obligations.AdditionsSetSumAndFiveFlags := fun _ _ _ =>
  ⟨⟨rfl, addsToA_of_exec rfl⟩, ⟨rfl, faultsAtFetchOnly _, addsToA_of_exec rfl⟩, ⟨rfl, addsToA_of_exec rfl⟩,
    ⟨rfl, faultsAtFetchOnly _, addsToA_of_exec rfl⟩⟩

/-- Settles O37: the four instructions put `sub8` of their operand and borrow in A. -/
theorem subtractionsSetDifferenceAndFiveFlags : Obligations.SubtractionsSetDifferenceAndFiveFlags := fun _ _ _ =>
  ⟨⟨rfl, subtractsFromA_of_exec rfl⟩, ⟨rfl, faultsAtFetchOnly _, subtractsFromA_of_exec rfl⟩,
    ⟨rfl, subtractsFromA_of_exec rfl⟩, ⟨rfl, faultsAtFetchOnly _, subtractsFromA_of_exec rfl⟩⟩

/-! ### Logic -/

/-- R144: `and8` under both values of ANA_AC. -/
theorem and8_eq (mode : AnaAc) (a b : Byte) :
    and8 mode a b = withFlags (a &&& b) (mode == .orBit3 && (a.getLsbD 3 || b.getLsbD 3)) false := by
  cases mode with
  | clear => rfl
  | orBit3 => rw [and8, BitVec.getLsbD_or]; rfl

/-- R144 to R146: an instruction that puts a result in A bit by bit, with CY clear. -/
theorem logicToA_of_exec {bit : Bool → Bool → Bool} {res : Byte} {ac : Bool}
    (hbit : ∀ k : Nat, k < 8 → res.getLsbD k = bit (s.regs.a.getLsbD k) (b.getLsbD k))
    (hexec : exec i s = .next (s.setAcc (withFlags res ac false))) : LogicToA i s bit b ac :=
  ⟨_, hexec, hbit, szpOf_withFlags _ _ _, rfl, rfl, Frame.setAcc_all s _⟩

/-- R144: an instruction that puts an AND in A. -/
theorem logicToA_of_and8 (hexec : exec i s = .next (s.setAcc (and8 s.params.anaAc s.regs.a b))) :
    LogicToA i s (fun p q => p && q) b (s.params.anaAc == .orBit3 && (s.regs.a.getLsbD 3 || b.getLsbD 3)) :=
  logicToA_of_exec (fun _ _ => BitVec.getLsbD_and) (hexec.trans (by rw [and8_eq]))

/-- R145: an instruction that puts an exclusive OR in A. -/
theorem logicToA_of_xor8 (hexec : exec i s = .next (s.setAcc (xor8 s.regs.a b))) :
    LogicToA i s (fun p q => p != q) b false :=
  logicToA_of_exec (fun _ _ => BitVec.getLsbD_xor) hexec

/-- R146: an instruction that puts an inclusive OR in A. -/
theorem logicToA_of_or8 (hexec : exec i s = .next (s.setAcc (or8 s.regs.a b))) :
    LogicToA i s (fun p q => p || q) b false :=
  logicToA_of_exec (fun _ _ => BitVec.getLsbD_or) hexec

/-- Settles O45: both instructions put `and8` of their operand in A. -/
theorem andClearsCarry : Obligations.AndClearsCarry := fun _ _ _ =>
  ⟨⟨rfl, logicToA_of_and8 rfl⟩, ⟨rfl, faultsAtFetchOnly _, logicToA_of_and8 rfl⟩⟩

/-- Settles O46: the four instructions put `xor8` or `or8` of their operand in A. -/
theorem xorAndOrClearCarries : Obligations.XorAndOrClearCarries := fun _ _ _ =>
  ⟨⟨rfl, logicToA_of_xor8 rfl⟩, ⟨rfl, faultsAtFetchOnly _, logicToA_of_xor8 rfl⟩, ⟨rfl, logicToA_of_or8 rfl⟩,
    ⟨rfl, faultsAtFetchOnly _, logicToA_of_or8 rfl⟩⟩

/-! ### Increment and decrement -/

/-- R147: `inc8` writes S, Z, P and AC alike under both profiles, which differ in CY alone. -/
theorem inc8_eq (profile : FlagProfile) (f : Flags) (a : Byte) :
    inc8 profile f a = withFlags (a + 1) (lowDigit a == 0xF) (inc8 profile f a).2.cy := by
  cases profile <;> rfl

/-- R148: `dec8` writes S, Z, P and AC alike under both profiles, which differ in CY alone. -/
theorem dec8_eq (profile : FlagProfile) (f : Flags) (a : Byte) :
    dec8 profile f a = withFlags (a - 1) (lowDigit a != 0) (dec8 profile f a).2.cy := by
  cases profile <;> rfl

/-- R84: an 8-bit operand after a result was written to it. -/
theorem operandAfter_setRM (hwf : Memory.wf s.mem = true) (x : RegM) (r : Byte × Flags) :
    operandAfter s (s.setRM x r) x = r.1 := by
  cases x with
  | reg x => exact (s.readReg_writeReg x x r.1).trans (if_pos rfl)
  | m => exact (State.memRead_memWrite hwf s.hl s.hl r.1).trans (if_pos rfl)

/-- R84: an instruction that puts a result in an 8-bit operand with all five flags. -/
theorem stepsOperand_of_exec (hwf : Memory.wf s.mem = true) {x : RegM} {res : Byte} {ac cy : Bool}
    (hexec : exec i s = .next (s.setRM x (withFlags res ac cy))) :
    ∃ t, exec i s = .next t ∧ operandAfter s t x = res ∧ t.flags.ac = ac ∧ SzpOf t.flags (operandAfter s t x) ∧
      t.flags.cy = cy ∧ Frame (May.rm s x Flag.all) s t := by
  refine ⟨_, hexec, operandAfter_setRM hwf x _, rfl, ?_, rfl, Frame.setRM hwf x _ fun k hk => absurd k.mem_all hk⟩
  rw [operandAfter_setRM hwf]
  exact szpOf_withFlags res ac cy

/-- Settles O39: `inc8` and `dec8` put their result in the operand, with CY by the profile. -/
theorem inrAndDcrStepTheOperand : Obligations.InrAndDcrStepTheOperand := by
  intro x s hwf
  constructor
  · obtain ⟨t, hexec, hval, hac, hszp, hcy, hframe⟩ := stepsOperand_of_exec (i := .inr x) hwf
      (congrArg (fun r => Host.Outcome.next (s.setRM x r)) (inc8_eq _ _ _))
    refine ⟨rfl, t, hexec, ?_, ?_, hszp, fun hprof => ?_, fun hprof => ?_, hframe⟩
    · rw [hval]
      exact BitVec.toNat_add (s.readRM x) 1
    · rw [hac]
      exact beq_iff_eq
    · rw [hcy, hprof]
      rfl
    · rw [hcy, hprof]
      exact beq_iff_eq
  · obtain ⟨t, hexec, hval, hac, hszp, hcy, hframe⟩ := stepsOperand_of_exec (i := .dcr x) hwf
      (congrArg (fun r => Host.Outcome.next (s.setRM x r)) (dec8_eq _ _ _))
    refine ⟨rfl, t, hexec, ?_, ?_, hszp, fun hprof => ?_, fun hprof => ?_, hframe⟩
    · rw [hval, Nat.add_comm]
      exact BitVec.toNat_sub (s.readRM x) 1
    · rw [hac]
      exact bne_iff_ne
    · rw [hcy, hprof]
      rfl
    · rw [hcy, hprof]
      exact beq_iff_eq

end Sys2Proof.Machine
end

section
/-! PROOFS. The 16-bit arithmetic (41_alu_flags.md R149, R150, 43_arithmetic.md R217 to R219): INX, DCX and DAD, whose flags
FLAG_PROFILE decides. -/

namespace Sys2Proof.Machine

variable {w : May} {s t : State}

/-- A pair operand is read from the register file and SP. -/
theorem State.readPair_congr (hr : t.regs = s.regs) (hsp : t.sp = s.sp) (p : Pair) : t.readPair p = s.readPair p := by
  cases p <;> simp [State.readPair, State.bc, State.de, State.hl, hr, hsp]

@[simp] theorem State.readPair_flagsStep16 (s : State) (cy : Bool) (p : Pair) :
    (s.flagsStep16 cy).readPair p = s.readPair p := by
  obtain ⟨-, he⟩ | ⟨-, he⟩ := s.flagsStep16_cases cy <;> rw [he]
  exact State.readPair_congr rfl rfl p

@[simp] theorem State.hl_flagsAdd16 (s : State) (cy : Bool) : (s.flagsAdd16 cy).hl = s.hl := by
  obtain ⟨-, he⟩ | ⟨-, he⟩ := s.flagsAdd16_cases cy <;> rw [he] <;> rfl

/-- R149: the 16-bit add sets CY under both profiles. -/
@[simp] theorem State.cy_flagsAdd16 (s : State) (cy : Bool) : (s.flagsAdd16 cy).flags.cy = cy := by
  obtain ⟨-, he⟩ | ⟨-, he⟩ := s.flagsAdd16_cases cy <;> rw [he] <;> rfl

theorem State.flagsStep16_of_docLiteral (h : s.params.flagProfile = .docLiteral) (cy : Bool) :
    s.flagsStep16 cy = s.drawFlags cy := by
  simp [State.flagsStep16, h]

theorem State.flagsAdd16_of_docLiteral (h : s.params.flagProfile = .docLiteral) (cy : Bool) :
    s.flagsAdd16 cy = s.drawFlags cy := by
  simp [State.flagsAdd16, h]

/-- R157: four flags drawn, from the draws that are next. -/
theorem drawn_drawFlags (h : t.drawCount = s.drawCount) (cy : Bool) : Drawn s (t.drawFlags cy) := by
  rw [Drawn, ← h]
  exact ⟨rfl, rfl, rfl, rfl, rfl⟩

/-- What may change under `doc_literal` bounds the 16-bit operations under both profiles. -/
theorem Frame.of_with16 {fs : List Flag} (h : Frame (May.with16 s w fs) s t) :
    Frame { w with flags := Flag.all, draws := true } s t := by
  cases hprof : s.params.flagProfile with
  | canonical =>
    rw [May.with16_of_canonical hprof] at h
    obtain ⟨hregs, -, hsp, hpc, hinte, hrun, hports, -, hp, hm⟩ := h
    exact ⟨hregs, fun k hk => absurd k.mem_all hk, hsp, hpc, hinte, hrun, hports, by simp, hp, hm⟩
  | docLiteral => rwa [May.with16_of_docLiteral hprof] at h

/-- R150: a pair operand stepped to a value, with the given carry or borrow. -/
theorem stepsPair_of_exec {i : Instr} {rp : Pair} {v : Word} {cy : Bool}
    (hexec : exec i s = .next ((s.writePair rp v).flagsStep16 cy)) :
    ∃ t, exec i s = .next t ∧ t.readPair rp = v ∧
      (s.params.flagProfile = .canonical → Frame (May.pair rp) s t) ∧
      (s.params.flagProfile = .docLiteral → t.flags.cy = cy ∧ Drawn s t) ∧
      Frame { May.pair rp with flags := Flag.all, draws := true } s t := by
  have hframe := Frame.step16 s rp v cy
  obtain ⟨-, -, -, -, -, hparams, -, hdraws⟩ := s.writePair_frame rp v
  refine ⟨_, hexec, by simp, fun hprof => ?_, fun hprof => ?_, hframe.of_with16⟩
  · rwa [May.with16_of_canonical hprof] at hframe
  · rw [State.flagsStep16_of_docLiteral (by rw [hparams, hprof])]
    exact ⟨rfl, drawn_drawFlags hdraws cy⟩

/-- Settles O40: both instructions step the pair, by one more or one less. -/
theorem inxAndDcxStepThePair : Obligations.InxAndDcxStepThePair := by
  intro rp s
  constructor
  · obtain ⟨t, hexec, hval, hcanon, hdoc, hframe⟩ := stepsPair_of_exec (s := s) (i := .inx rp) rfl
    refine ⟨rfl, t, hexec, ?_, hcanon, fun hprof => ?_, hframe⟩
    · rw [hval]
      exact BitVec.toNat_add (s.readPair rp) 1
    · obtain ⟨hcy, hdrawn⟩ := hdoc hprof
      exact ⟨by rw [hcy, beq_iff_eq], hdrawn⟩
  · obtain ⟨t, hexec, hval, hcanon, hdoc, hframe⟩ := stepsPair_of_exec (s := s) (i := .dcx rp) rfl
    refine ⟨rfl, t, hexec, ?_, hcanon, fun hprof => ?_, hframe⟩
    · rw [hval, Nat.add_comm]
      exact BitVec.toNat_sub (s.readPair rp) 1
    · obtain ⟨hcy, hdrawn⟩ := hdoc hprof
      exact ⟨by rw [hcy, beq_iff_eq], hdrawn⟩

/-- Settles O41: HL holds the sum and CY its carry, whichever way the profile writes the other flags. -/
theorem dadAddsToHl : Obligations.DadAddsToHl := by
  intro rp s
  have hframe (v : Word) (cy : Bool) :
      Frame (May.with16 s { regs := [.h, .l] } [.cy]) s ((s.setHl v).flagsAdd16 cy) :=
    ((Frame.refl _ s).then_setHl (by simp) (by simp) v).then_flagsAdd16 cy
  refine ⟨rfl, _, rfl, ?_, ?_, fun hprof => ?_, fun hprof => ?_, (hframe _ _).of_with16⟩
  · rw [State.hl_flagsAdd16, State.hl_setHl]
    exact BitVec.toNat_add _ _
  · rw [State.cy_flagsAdd16]
    exact decide_eq_true_iff
  · rw [← May.with16_of_canonical hprof { regs := [.h, .l] } [.cy]]
    exact hframe _ _
  · rw [State.flagsAdd16_of_docLiteral (by exact hprof)]
    exact drawn_drawFlags rfl _

end Sys2Proof.Machine
end

section
/-! PROOFS. Decimal adjust (41_alu_flags.md R154, 43_arithmetic.md R220) and decimal addition through it. -/

namespace Sys2Proof.Machine

/-- R154: the correction of the low digit. -/
def daaLowFix (f : Flags) (a : Byte) : Nat := if daaLow f a then 6 else 0

/-- R154: the correction of the high digit. -/
def daaHighFix (f : Flags) (a : Byte) : Nat := if daaHigh f a then 96 else 0

variable (f : Flags) (a : Byte)

/-- R154: when the low digit is corrected. -/
theorem daaLow_iff : daaLow f a = true ↔ 9 < a.toNat % 16 ∨ f.ac = true := by
  simp [daaLow, lowDigit]

/-- R154: when the high digit is corrected. -/
theorem daaHigh_iff : daaHigh f a = true ↔
    9 < a.toNat / 16 ∨ f.cy = true ∨ 9 ≤ a.toNat / 16 ∧ 9 < a.toNat % 16 := by
  simp [daaHigh, lowDigit, highDigit, or_assoc]

theorem daaLowFix_cases : daaLowFix f a = 6 ∧ (9 < a.toNat % 16 ∨ f.ac = true) ∨
    daaLowFix f a = 0 ∧ ¬(9 < a.toNat % 16 ∨ f.ac = true) := by
  rw [← daaLow_iff, daaLowFix]
  split <;> simp [*]

theorem daaHighFix_cases :
    daaHighFix f a = 96 ∧ (9 < a.toNat / 16 ∨ f.cy = true ∨ 9 ≤ a.toNat / 16 ∧ 9 < a.toNat % 16) ∨
    daaHighFix f a = 0 ∧ ¬(9 < a.toNat / 16 ∨ f.cy = true ∨ 9 ≤ a.toNat / 16 ∧ 9 < a.toNat % 16) := by
  rw [← daaHigh_iff, daaHighFix]
  split <;> simp [*]

/-- R154: the high digit's correction leaves the low digit alone. -/
theorem daaFix_mod : (daaLowFix f a + daaHighFix f a) % 16 = daaLowFix f a := by
  unfold daaLowFix daaHighFix
  split <;> split <;> rfl

/-- R154: DAA's result. -/
theorem toNat_daa8 : (daa8 f a).1.toNat = (a.toNat + daaLowFix f a + daaHighFix f a) % 256 := by
  rw [Nat.add_assoc]
  exact BitVec.toNat_ofNat _ 8

/-- R154: AC after DAA is the carry out of the low digit. -/
theorem daa8_ac_iff : (daa8 f a).2.ac = true ↔ 15 < a.toNat % 16 + daaLowFix f a := by
  have hac : (daa8 f a).2.ac = true ↔ 15 < lowDigit a + (daaLowFix f a + daaHighFix f a) % 16 := decide_eq_true_iff
  rwa [daaFix_mod] at hac

/-- R154: DAA sets CY or keeps it. -/
theorem daa8_cy : (daa8 f a).2.cy = (daaHigh f a || f.cy) := rfl

theorem daa8_cy_iff : (daa8 f a).2.cy = true ↔ f.cy = true ∨ daaHighFix f a = 96 := by
  rw [daa8_cy, Bool.or_eq_true, or_comm, daaHighFix]
  split <;> simp [*]

/-- Settles O42: the two corrections are those of `daa8`. -/
theorem daaAdjustsTheAccumulator : Obligations.DaaAdjustsTheAccumulator := fun s =>
  ⟨rfl, _, daaLowFix s.flags s.regs.a, daaHighFix s.flags s.regs.a, rfl, daaLowFix_cases _ _, daaHighFix_cases _ _,
    toNat_daa8 _ _, daa8_ac_iff _ _, daa8_cy_iff _ _, szpOf_withFlags _ _ _, Frame.setAcc_all s _⟩

/-- A packed decimal byte as a number. -/
theorem toNat_bcd {n : Nat} (h : n < 100) : (bcd n).toNat = n / 10 * 16 + n % 10 := by
  rw [bcd, BitVec.toNat_ofNat]
  omega

/-- A packed decimal byte's low digit. -/
theorem toNat_bcd_mod {n : Nat} (h : n < 100) : (bcd n).toNat % 16 = n % 10 := by
  rw [toNat_bcd h]
  omega

/-- The correction of the low digit carries where it reaches 10: `hi` and `lo` become tens and ones. -/
theorem low_corrected (hi lo : Nat) (hlo : lo ≤ 19) :
    hi * 16 + lo + (if 10 ≤ lo then 6 else 0) = (hi + lo / 10) * 16 + lo % 10 := by
  split <;> omega

/-- The correction of the high digit drops a hundred. -/
theorem high_corrected {tens ones : Nat} (htens : tens ≤ 19) (hones : ones < 10) :
    (tens * 16 + ones + (if 10 ≤ tens then 96 else 0)) % 256 = tens % 10 * 16 + ones := by
  split <;> omega

/-- The two corrections turn base 16 into base 10, modulo two digits. -/
theorem decimal_of_corrected {hi lo : Nat} (hhi : hi ≤ 18) (hlo : lo ≤ 19) :
    (hi * 16 + lo + (if 10 ≤ lo then 6 else 0) + (if 100 ≤ hi * 10 + lo then 96 else 0)) % 256 =
      (hi * 10 + lo) % 100 / 10 * 16 + (hi * 10 + lo) % 100 % 10 := by
  have hhundred : 100 ≤ hi * 10 + lo ↔ 10 ≤ hi + lo / 10 := by omega
  have htens : (hi * 10 + lo) % 100 / 10 = (hi + lo / 10) % 10 := by omega
  have hones : (hi * 10 + lo) % 100 % 10 = lo % 10 := by omega
  rw [low_corrected hi lo hlo, if_congr hhundred rfl rfl, high_corrected (by omega) (by omega), htens, hones]

/-- R142, R154: after an addition of packed decimal bytes whose high digits add to `hi`, and whose low digits and carry to
`lo`, DAA corrects the low digit where `lo` reaches 10 and the high digit where the whole sum reaches 100, and so leaves
the decimal sum and its carry. -/
theorem daa8_of_digit_sums {f : Flags} {a : Byte} {hi lo : Nat} (hhi : hi ≤ 18) (hlo : lo ≤ 19)
    (hsum : a.toNat = (hi * 16 + lo) % 256) (hcy : f.cy = true ↔ 255 < hi * 16 + lo) (hac : f.ac = true ↔ 15 < lo) :
    (daa8 f a).1 = bcd ((hi * 10 + lo) % 100) ∧ ((daa8 f a).2.cy = true ↔ 100 ≤ hi * 10 + lo) := by
  have hlow : daaLow f a = true ↔ 10 ≤ lo := by
    rw [daaLow_iff, hac]
    clear hcy hac
    omega
  have hhigh : daaHigh f a = true ↔ 100 ≤ hi * 10 + lo := by
    rw [daaHigh_iff, hcy]
    clear hcy hac
    omega
  constructor
  · apply BitVec.eq_of_toNat_eq
    rw [toNat_daa8, daaLowFix, daaHighFix, if_congr hlow rfl rfl, if_congr hhigh rfl rfl, hsum,
      Nat.add_assoc, Nat.mod_add_mod, ← Nat.add_assoc, decimal_of_corrected hhi hlo, toNat_bcd (Nat.mod_lt _ (by decide))]
  · rw [daa8_cy, Bool.or_eq_true, hhigh, hcy]
    omega

/-- R142, R154: DAA after an addition of packed decimal bytes gives the decimal sum modulo 100 and its carry. -/
theorem daa8_add8_bcd {x y : Nat} (hx : x < 100) (hy : y < 100) {a : Byte} (ha : a = bcd x) (cin : Bool) :
    (daa8 (add8 a (bcd y) cin).2 (add8 a (bcd y) cin).1).1 = bcd ((x + y + cin.toNat) % 100) ∧
      ((daa8 (add8 a (bcd y) cin).2 (add8 a (bcd y) cin).1).2.cy = true ↔ 100 ≤ x + y + cin.toNat) := by
  obtain ⟨hres, hcy, hac, -⟩ := addFlags_add8 a (bcd y) cin
  subst ha
  have hcin := cin.toNat_le
  have hpacked : (bcd x).toNat + (bcd y).toNat + cin.toNat =
      (x / 10 + y / 10) * 16 + (x % 10 + y % 10 + cin.toNat) := by
    rw [toNat_bcd hx, toNat_bcd hy]
    omega
  have hdecimal : x + y + cin.toNat = (x / 10 + y / 10) * 10 + (x % 10 + y % 10 + cin.toNat) := by omega
  rw [hpacked] at hres hcy
  rw [toNat_bcd_mod hx, toNat_bcd_mod hy] at hac
  rw [hdecimal]
  exact daa8_of_digit_sums (by omega) (by omega) hres hcy hac

/-- Settles O43: ACI is `add8` of A and its byte, and DAA is `daa8` of what it leaves. -/
theorem decimalAdditionThroughDaa : Obligations.DecimalAdditionThroughDaa := by
  intro s x y hx hy ha
  obtain ⟨hsum, hcarry⟩ := daa8_add8_bcd hx hy ha s.flags.cy
  exact ⟨_, _, rfl, rfl, hsum, hcarry⟩

end Sys2Proof.Machine
end

section
/-! PROOFS. The rotates, complement and carry control (41_alu_flags.md R151, R152, 44_logical.md R250 to R256). -/

namespace Sys2Proof.Machine

/-! ### A bit shifted in -/

variable (a : Byte) (c : Bool)

theorem getLsbD_zeroExtend_ofBool (k : Nat) :
    ((BitVec.ofBool c).zeroExtend 8).getLsbD k = (decide (k = 0) && c) := by
  cases k <;> cases c <;> simp

/-- R152: a left rotate's bit 0 is the bit shifted in. -/
theorem getLsbD_zero_shiftLeft_or : ((a <<< 1) ||| (BitVec.ofBool c).zeroExtend 8).getLsbD 0 = c := by
  rw [BitVec.getLsbD_or, getLsbD_zeroExtend_ofBool]
  simp

/-- R152: a left rotate's other bits come from the place to their right. -/
theorem getLsbD_succ_shiftLeft_or {k : Nat} (hk : k < 7) :
    ((a <<< 1) ||| (BitVec.ofBool c).zeroExtend 8).getLsbD (k + 1) = a.getLsbD k := by
  have hlt : k + 1 < 8 := Nat.succ_lt_succ hk
  rw [BitVec.getLsbD_or, getLsbD_zeroExtend_ofBool]
  simp [hlt, BitVec.getLsbD_eq_getElem (Nat.lt_succ_of_lt hk)]

/-- R152: a right rotate's bit 7 is the bit shifted in. -/
theorem getLsbD_seven_shiftRight_or : ((a >>> 1) ||| ((BitVec.ofBool c).zeroExtend 8 <<< 7)).getLsbD 7 = c := by
  rw [BitVec.getLsbD_or, BitVec.getLsbD_shiftLeft, getLsbD_zeroExtend_ofBool]
  simp

/-- R152: a right rotate's other bits come from the place to their left. -/
theorem getLsbD_shiftRight_or {k : Nat} (hk : k < 7) :
    ((a >>> 1) ||| ((BitVec.ofBool c).zeroExtend 8 <<< 7)).getLsbD k = a.getLsbD (k + 1) := by
  rw [BitVec.getLsbD_or, BitVec.getLsbD_shiftLeft]
  simp [hk, Nat.add_comm]

/-- R158: a result in A with CY, the other flags kept. -/
theorem Frame.setAcc_cy (s : State) (v : Byte) (cy : Bool) :
    Frame (May.acc [.cy]) s (s.setAcc (v, { s.flags with cy := cy })) :=
  Frame.setAcc _ fun _ hk => s.flag_setFlags_cy cy hk

/-- Settles O47: each rotate shifts its bit in at one end, and puts the one that leaves at the other in CY. -/
theorem rotatesMoveEachBit : Obligations.RotatesMoveEachBit := fun s =>
  ⟨⟨rfl, _, rfl, getLsbD_zero_shiftLeft_or _ _, fun _ hk => getLsbD_succ_shiftLeft_or _ _ hk, rfl,
      Frame.setAcc_cy s _ _⟩,
    ⟨rfl, _, rfl, getLsbD_seven_shiftRight_or _ _, fun _ hk => getLsbD_shiftRight_or _ _ hk, rfl,
      Frame.setAcc_cy s _ _⟩,
    ⟨rfl, _, rfl, getLsbD_zero_shiftLeft_or _ _, fun _ hk => getLsbD_succ_shiftLeft_or _ _ hk, rfl,
      Frame.setAcc_cy s _ _⟩,
    ⟨rfl, _, rfl, getLsbD_seven_shiftRight_or _ _, fun _ hk => getLsbD_shiftRight_or _ _ hk, rfl,
      Frame.setAcc_cy s _ _⟩⟩

/-! ### Complement and carry control -/

/-- R151: the result is the complement under both profiles. -/
theorem cma8_fst (profile : FlagProfile) (f : Flags) (a : Byte) : (cma8 profile f a).1 = ~~~a := by
  cases profile <;> rfl

/-- CY written alone. -/
theorem Frame.setFlags_cy (s : State) (cy : Bool) :
    Frame { flags := [.cy] } s (s.setFlags { s.flags with cy := cy }) :=
  (Frame.refl _ s).then_setFlags fun _ hk => s.flag_setFlags_cy cy hk

/-- R151: CMA keeps CY and AC under both profiles. -/
theorem Frame.cma_szp (s : State) :
    Frame (May.acc [.s, .z, .p]) s (s.setAcc (cma8 s.params.flagProfile s.flags s.regs.a)) := by
  refine Frame.setAcc _ fun k hk => ?_
  cases s.params.flagProfile with
  | canonical => exact State.flag_congr rfl k
  | docLiteral => exact s.flag_setFlags_szp _ hk

/-- Settles O49: CMA by the profile; CMC and STC write CY alone. -/
theorem complementAndCarryControl : Obligations.ComplementAndCarryControl := by
  intro s
  refine ⟨⟨rfl, _, rfl, ?_, fun hprof => ?_, fun hprof => ?_, Frame.cma_szp s⟩,
    ⟨rfl, _, rfl, rfl, Frame.setFlags_cy s _⟩, ⟨rfl, _, rfl, rfl, Frame.setFlags_cy s _⟩⟩
  · rw [State.setAcc_regs, cma8_fst]
    exact toNat_not _
  · rw [hprof]
    exact Frame.setAcc _ fun k _ => State.flag_congr rfl k
  · rw [hprof]
    exact szpOf_szp s.flags _

end Sys2Proof.Machine
end

section
/-! PROOFS. The jumps (45_control_flow.md R271, R272, R278). -/

namespace Sys2Proof.Machine

/-- R272: an instruction that jumps where its condition holds, by what the condition says of the flags. -/
theorem exec_jumpIf_eq_ite {i : Instr} {s : State} {ccc : Cond} {w : Word} {p : Prop} [Decidable p]
    (hexec : exec i s = .next (s.jumpIf ccc w)) (hcond : s.flags.cond ccc = true ↔ p) :
    exec i s = .next (if p then { s with pc := w } else s) :=
  hexec.trans (congrArg Host.Outcome.next (if_congr hcond rfl rfl))

/-- Settles O50: the unconditional jumps set pc, and each conditional one is `jumpIf` of its condition, which holds where a
flag is set or where it is clear (R153). -/
theorem jumpsSetPcAlone : Obligations.JumpsSetPcAlone := by
  intro w s
  have hclear (b : Bool) : (!b) = true ↔ b = false := iff_of_eq (Bool.not_eq_true' b)
  exact ⟨⟨rfl, faultsAtFetchOnly _, rfl⟩, ⟨rfl, rfl⟩,
    ⟨rfl, faultsAtFetchOnly _, exec_jumpIf_eq_ite rfl (hclear _)⟩,
    ⟨rfl, faultsAtFetchOnly _, exec_jumpIf_eq_ite rfl Iff.rfl⟩,
    ⟨rfl, faultsAtFetchOnly _, exec_jumpIf_eq_ite rfl (hclear _)⟩,
    ⟨rfl, faultsAtFetchOnly _, exec_jumpIf_eq_ite rfl Iff.rfl⟩,
    ⟨rfl, faultsAtFetchOnly _, exec_jumpIf_eq_ite rfl (hclear _)⟩,
    ⟨rfl, faultsAtFetchOnly _, exec_jumpIf_eq_ite rfl Iff.rfl⟩,
    ⟨rfl, faultsAtFetchOnly _, exec_jumpIf_eq_ite rfl (hclear _)⟩,
    ⟨rfl, faultsAtFetchOnly _, exec_jumpIf_eq_ite rfl Iff.rfl⟩⟩

end Sys2Proof.Machine
end

section
/-! PROOFS. Data movement (42_data_movement.md R171 to R183): a register, a pair, or bytes of memory written, and the exchange
of DE and HL. -/

namespace Sys2Proof.Machine

variable {s : State}

/-! ### A cell read back after it was written -/

@[simp] theorem State.readReg_writeReg_self (s : State) (r : Reg) (v : Byte) : (s.writeReg r v).readReg r = v := by
  rw [State.readReg_writeReg, if_pos rfl]

theorem State.memRead_memWrite_self (hwf : Memory.wf s.mem = true) (a : Word) (v : Byte) :
    (s.memWrite a v).memRead a = v := by
  rw [State.memRead_memWrite hwf, if_pos rfl]

/-- R84: an 8-bit operand after a byte was written to it. -/
theorem operandAfter_writeRM (hwf : Memory.wf s.mem = true) (x : RegM) (v : Byte) :
    operandAfter s (s.writeRM x v) x = v := by
  cases x with
  | reg r => exact s.readReg_writeReg_self r v
  | m => exact State.memRead_memWrite_self hwf s.hl v

/-! ### Loads and stores of one byte -/

/-- An instruction that writes one register completes with the byte in it and changes nothing else. -/
theorem loads_of_exec {i : Instr} {r : Reg} {v : Byte} (hexec : exec i s = .next (s.writeReg r v)) :
    ∃ t, exec i s = .next t ∧ t.readReg r = v ∧ Frame { regs := [r] } s t :=
  ⟨_, hexec, s.readReg_writeReg_self r v, (Frame.refl _ s).then_writeReg (List.mem_singleton_self r) v⟩

/-- R177, R181: the same for A. -/
theorem loadsAcc_of_exec {i : Instr} {v : Byte} (hexec : exec i s = .next (s.writeReg .a v)) :
    ∃ t, exec i s = .next t ∧ t.regs.a = v ∧ Frame (May.acc []) s t :=
  loads_of_exec hexec

/-- R53: an instruction that writes one byte of memory completes with the byte there and changes nothing else. -/
theorem stores_of_exec (hwf : Memory.wf s.mem = true) {i : Instr} {a : Word} {v : Byte}
    (hexec : exec i s = .next (s.memWrite a v)) :
    ∃ t, exec i s = .next t ∧ t.memRead a = v ∧ Frame { stored := [a] } s t :=
  ⟨_, hexec, State.memRead_memWrite_self hwf a v, Frame.memWrite hwf a v⟩

/-- Settles O28: the first two forms load a register and the third stores one, at the HL of the state they run in. -/
theorem movCopiesOneByte : Obligations.MovCopiesOneByte := fun _ _ _ hwf =>
  ⟨⟨rfl, loads_of_exec rfl⟩, ⟨rfl, loads_of_exec rfl⟩, ⟨rfl, stores_of_exec hwf rfl⟩⟩

/-- Settles O29: the operand read back is the byte written to it. -/
theorem mviPutsTheImmediate : Obligations.MviPutsTheImmediate := fun dst d8 _ hwf =>
  ⟨rfl, faultsAtFetchOnly _, _, rfl, operandAfter_writeRM hwf dst d8, Frame.writeRM hwf dst d8 []⟩

/-- Settles O30: the pair read back is the word written to it. -/
theorem lxiLoadsTheWord : Obligations.LxiLoadsTheWord := fun rp d16 s =>
  ⟨rfl, faultsAtFetchOnly _, _, rfl, s.readPair_writePair rp d16,
    Frame.writePair rp (fun _ hr => hr) (by rintro rfl; rfl) s d16⟩

/-- Settles O31: both load A, LDAX from the address in its pair. -/
theorem ldaAndLdaxLoadTheAccumulator : Obligations.LdaAndLdaxLoadTheAccumulator := by
  intro a16 rp s
  refine ⟨⟨rfl, faultsAtFetchOnly _, loadsAcc_of_exec rfl⟩, rfl, rfl, ?_⟩
  cases rp with
  | bc | de => exact loadsAcc_of_exec rfl

/-- Settles O32: both store A. -/
theorem staAndStaxStoreTheAccumulator : Obligations.StaAndStaxStoreTheAccumulator := fun _ _ _ hwf =>
  ⟨⟨rfl, faultsAtFetchOnly _, stores_of_exec hwf rfl⟩, rfl, rfl, stores_of_exec hwf rfl⟩

/-! ### Loads and stores of HL -/

/-- Settles O33: HL holds the word read, whose high byte comes from the next address (R54). -/
theorem lhldLoadsLThenH : Obligations.LhldLoadsLThenH := fun _ s =>
  ⟨rfl, faultsAtFetchOnly _, _, rfl, loByte_wordOf _ _, hiByte_wordOf _ _,
    (Frame.refl _ s).then_setHl (by simp) (by simp) _⟩

/-- R55: the high byte of a word written, which is written last. -/
theorem State.memRead_memWrite16_high (hwf : Memory.wf s.mem = true) (a v : Word) :
    (s.memWrite16 a v).memRead (a + 1) = hiByte v := by
  rw [State.memRead_memWrite16 hwf, if_pos rfl]

/-- R55: the byte at the address of a word written: its low byte, unless the high byte shares the index. -/
theorem State.memRead_memWrite16_low (hwf : Memory.wf s.mem = true) (a v : Word) :
    (s.memWrite16 a v).memRead a = if s.phys a = s.phys (a + 1) then hiByte v else loByte v := by
  rw [State.memRead_memWrite16 hwf, if_pos (rfl : s.phys a = s.phys a)]

/-- Settles O34: the word written is HL, and its bytes are H and L. -/
theorem shldStoresLThenH : Obligations.ShldStoresLThenH := by
  intro a16 s hwf
  have hh : hiByte s.hl = s.regs.h := hiByte_wordOf _ _
  have hl : loByte s.hl = s.regs.l := loByte_wordOf _ _
  refine ⟨rfl, faultsAtFetchOnly _, _, rfl, ?_, ?_, Frame.memWrite16 hwf a16 s.hl⟩
  · rw [State.memRead_memWrite16_high hwf, hh]
  · rw [State.memRead_memWrite16_low hwf, hh, hl]

/-! ### The exchange of DE and HL -/

/-- R23: a pair is written with the value it has. -/
theorem State.setDe_de (s : State) : s.setDe s.de = s := by
  simp [State.setDe, State.de, State.writeReg, Regs.set]

/-- R23: a pair is written with the value it has. -/
theorem State.setHl_hl (s : State) : s.setHl s.hl = s := by
  simp [State.setHl, State.hl, State.writeReg, Regs.set]

/-- R23: DE and HL share no register, so the last value written to each is the one left. -/
theorem State.setDe_setHl_setDe_setHl (s : State) (v v' w w' : Word) :
    (((s.setHl v).setDe v').setHl w).setDe w' = (s.setHl w).setDe w' := by
  simp only [State.setDe, State.setHl, State.writeReg, Regs.set]

/-- R183: the state after XCHG. -/
def State.exchanged (s : State) : State := (s.setHl s.de).setDe s.hl

theorem State.de_exchanged (s : State) : s.exchanged.de = s.hl := (s.setHl s.de).de_setDe s.hl

theorem State.hl_exchanged (s : State) : s.exchanged.hl = s.de := s.hl_setHl s.de

/-- R183: two exchanges restore the state. -/
theorem State.exchanged_exchanged (s : State) : s.exchanged.exchanged = s :=
  calc s.exchanged.exchanged
      = (s.exchanged.setHl s.hl).setDe s.de := by
        rw [State.exchanged, State.de_exchanged, State.hl_exchanged]
    _ = (s.setHl s.hl).setDe s.de := s.setDe_setHl_setDe_setHl s.de s.hl s.hl s.de
    _ = s := by rw [State.setHl_hl, State.setDe_de]

theorem exec_xchg (s : State) : exec .xchg s = .next s.exchanged := rfl

/-- Settles O35: XCHG answers the exchanged state. -/
theorem xchgExchangesDeAndHl : Obligations.XchgExchangesDeAndHl := fun s =>
  ⟨rfl, _, exec_xchg s, s.de_exchanged, s.hl_exchanged,
    ((Frame.refl _ s).then_setHl (by simp) (by simp) _).then_setDe (by simp) (by simp) _,
    (exec_xchg _).trans (congrArg Host.Outcome.next s.exchanged_exchanged)⟩

end Sys2Proof.Machine
end

section
/-! PROOFS. Comparisons (43_arithmetic.md R221 to R223), and an instruction followed by its inverse (R224). -/

namespace Sys2Proof.Machine

variable {s : State}

/-! ### Comparisons -/

/-- R143: a difference without borrow-in is zero where the operands are equal. -/
theorem SubFlags.z_iff {f : Flags} {a b res : Byte} (h : SubFlags f a b false res) : f.z = true ↔ a = b := by
  obtain ⟨hres, -, -, -, hz, -⟩ := h
  have ha := a.isLt
  have hb := b.isLt
  rw [hz, hres, ← BitVec.toNat_inj, Bool.toNat_false]
  omega

/-- R221: an instruction that writes the flags of `A - b` alone. -/
theorem comparesWithA_of_exec {i : Instr} {b : Byte}
    (hexec : exec i s = .next (s.setFlags (sub8 s.regs.a b false).2)) : ComparesWithA i s b :=
  have hflags := subFlags_sub8 s.regs.a b false
  ⟨_, _, hexec, hflags, hflags.z_iff, (Frame.refl _ s).then_setFlags fun k hk => absurd k.mem_all hk⟩

/-- Settles O38: both instructions write the flags of `sub8` of their operand alone. -/
theorem comparisonsSetFlagsOnly : Obligations.ComparisonsSetFlagsOnly := fun _ _ _ =>
  ⟨⟨rfl, comparesWithA_of_exec rfl⟩, ⟨rfl, faultsAtFetchOnly _, comparesWithA_of_exec rfl⟩⟩

/-! ### An 8-bit operand incremented and decremented -/

theorem inc8_fst (profile : FlagProfile) (f : Flags) (a : Byte) : (inc8 profile f a).1 = a + 1 := by
  cases profile <;> rfl

theorem dec8_fst (profile : FlagProfile) (f : Flags) (a : Byte) : (dec8 profile f a).1 = a - 1 := by
  cases profile <;> rfl

theorem Regs.set_set (rs : Regs) (r : Reg) (v w : Byte) : (rs.set r v).set r w = rs.set r w := by cases r <;> rfl

theorem State.regs_set_readReg (s : State) (r : Reg) : s.regs.set r (s.readReg r) = s.regs := by cases r <;> rfl

/-- R84: an 8-bit operand read back after a result was written to it; HL, which says where M is, is as it was. -/
theorem State.readRM_setRM (hwf : Memory.wf s.mem = true) (x : RegM) (q : Byte × Flags) :
    (s.setRM x q).readRM x = q.1 := by
  cases x with
  | reg r => exact operandAfter_setRM hwf (.reg r) q
  | m => exact operandAfter_setRM hwf .m q

/-- R147: the operand after INR. -/
theorem readRM_after_inr (hwf : Memory.wf s.mem = true) (x : RegM) :
    (after (.inr x) s).readRM x = s.readRM x + 1 :=
  (State.readRM_setRM hwf x _).trans (inc8_fst _ _ _)

/-- R148: the operand after DCR. -/
theorem readRM_after_dcr (hwf : Memory.wf s.mem = true) (x : RegM) :
    (after (.dcr x) s).readRM x = s.readRM x - 1 :=
  (State.readRM_setRM hwf x _).trans (dec8_fst _ _ _)

/-- R84: an 8-bit operand overwritten, and then written with the byte it held: the registers and every byte of memory
are as they were. -/
theorem State.setRM_setRM_restores (hwf : Memory.wf s.mem = true) {x : RegM} (q : Byte × Flags) {q' : Byte × Flags}
    (hq : q'.1 = s.readRM x) :
    ((s.setRM x q).setRM x q').regs = s.regs ∧ ∀ a : Word, ((s.setRM x q).setRM x q').memRead a = s.memRead a := by
  cases x with
  | reg r =>
    refine ⟨?_, fun _ => rfl⟩
    calc ((s.setRM (.reg r) q).setRM (.reg r) q').regs
        = (s.regs.set r q.1).set r q'.1 := rfl
      _ = s.regs := by rw [Regs.set_set, hq, State.readRM, State.regs_set_readReg]
  | m =>
    refine ⟨rfl, fun a => ?_⟩
    calc ((s.setRM .m q).setRM .m q').memRead a
        = if s.phys a = s.phys s.hl then q'.1 else (s.memWrite s.hl q.1).memRead a :=
          State.memRead_memWrite (s := s.setRM .m q) (Memory.wf_write hwf _ _) s.hl a q'.1
      _ = s.memRead a := by
        rw [State.memRead_memWrite hwf, hq]
        split
        · next hphys => exact congrArg (Memory.read s.mem) hphys.symm
        · rfl

/-- R224: INR and then DCR of an operand. -/
theorem dcr_after_inr_restores (hwf : Memory.wf s.mem = true) (x : RegM) :
    (after (.dcr x) (after (.inr x) s)).regs = s.regs ∧
    ∀ a : Word, (after (.dcr x) (after (.inr x) s)).memRead a = s.memRead a :=
  State.setRM_setRM_restores hwf _ (by rw [dec8_fst, readRM_after_inr hwf, BitVec.add_sub_cancel])

/-- R224: DCR and then INR of an operand. -/
theorem inr_after_dcr_restores (hwf : Memory.wf s.mem = true) (x : RegM) :
    (after (.inr x) (after (.dcr x) s)).regs = s.regs ∧
    ∀ a : Word, (after (.inr x) (after (.dcr x) s)).memRead a = s.memRead a :=
  State.setRM_setRM_restores hwf _ (by rw [inc8_fst, readRM_after_dcr hwf, BitVec.sub_add_cancel])

/-! ### A pair incremented and decremented -/

/-- R217, R150: the pair after INX, whatever becomes of the flags. -/
theorem readPair_after_inx (rp : Pair) (s : State) : (after (.inx rp) s).readPair rp = s.readPair rp + 1 :=
  (State.readPair_flagsStep16 _ _ rp).trans (s.readPair_writePair rp _)

/-- R218, R150: the pair after DCX, whatever becomes of the flags. -/
theorem readPair_after_dcx (rp : Pair) (s : State) : (after (.dcx rp) s).readPair rp = s.readPair rp - 1 :=
  (State.readPair_flagsStep16 _ _ rp).trans (s.readPair_writePair rp _)

/-! ### A byte added to A and subtracted from it -/

/-- R142: the sum without carry-in. -/
theorem add8_fst (a b : Byte) : (add8 a b false).1 = a + b := by
  obtain ⟨hres, -⟩ := addFlags_add8 a b false
  apply BitVec.eq_of_toNat_eq
  rw [hres, BitVec.toNat_add]
  rfl

/-- R143: the difference without borrow-in. -/
theorem sub8_fst (a b : Byte) : (sub8 a b false).1 = a - b := by
  obtain ⟨hres, -⟩ := subFlags_sub8 a b false
  have hb := b.isLt
  apply BitVec.eq_of_toNat_eq
  rw [hres, BitVec.toNat_sub, Bool.toNat_false]
  omega

/-- R224: a byte added to A and then subtracted from it. -/
theorem State.setAcc_add8_sub8_restores (s : State) (b : Byte) :
    ((s.setAcc (add8 s.regs.a b false)).setAcc (sub8 (add8 s.regs.a b false).1 b false)).regs = s.regs := by
  rw [State.setAcc_regs, State.setAcc_regs, sub8_fst, add8_fst, BitVec.add_sub_cancel]

/-- A register other than A is as it was after a result was written to A. -/
theorem State.readReg_setAcc {r : Reg} (hr : r ≠ .a) (s : State) (q : Byte × Flags) :
    (s.setAcc q).readReg r = s.readReg r :=
  (s.readReg_writeReg .a r q.1).trans (if_neg hr)

/-- R224: ADD r and then SUB r, the operand being the same byte both times because it is not in A. -/
theorem sub_after_add_restores {r : Reg} (hr : r ≠ .a) (s : State) :
    (after (.sub (.reg r)) (after (.add (.reg r)) s)).regs = s.regs :=
  calc (after (.sub (.reg r)) (after (.add (.reg r)) s)).regs
      = ((s.setAcc (add8 s.regs.a (s.readReg r) false)).setAcc (sub8 (add8 s.regs.a (s.readReg r) false).1
          ((s.setAcc (add8 s.regs.a (s.readReg r) false)).readReg r) false)).regs := rfl
    _ = s.regs := by rw [State.readReg_setAcc hr, State.setAcc_add8_sub8_restores]

/-- Settles O44: each pair of instructions writes one operand twice, the second time with the value it held. -/
theorem inverseInstructionsRestoreTheOperand : Obligations.InverseInstructionsRestoreTheOperand := by
  intro r rp d8 s hwf
  obtain ⟨hinr, -⟩ := dcr_after_inr_restores hwf (.reg r)
  obtain ⟨hdcr, -⟩ := inr_after_dcr_restores hwf (.reg r)
  obtain ⟨-, hmem⟩ := dcr_after_inr_restores hwf .m
  refine ⟨hinr, hdcr, hmem, ?_, ?_, s.setAcc_add8_sub8_restores d8, fun hr => sub_after_add_restores hr s⟩
  · rw [readPair_after_dcx, readPair_after_inx, BitVec.add_sub_cancel]
  · rw [readPair_after_inx, readPair_after_dcx, BitVec.sub_add_cancel]

end Sys2Proof.Machine
end

section
/-! PROOFS. The rotates through the carry (44_logical.md R252, R253): A and CY as a ring of nine bits, which RAL turns one
place one way and RAR one place the other. -/

namespace Sys2Proof.Machine

variable {s t : State}

/-! ### The ring of A and CY -/

/-- The ring's bit at a place, places counted modulo nine: A's bits at 0 to 7, CY at 8. -/
def State.ringBit (s : State) (k : Nat) : Bool :=
  if k % 9 = 8 then s.flags.cy else s.regs.a.getLsbD (k % 9)

theorem State.ringBit_of_lt {k : Nat} (hk : k < 8) (s : State) : s.ringBit k = s.regs.a.getLsbD k := by
  have hmod : k % 9 = k := Nat.mod_eq_of_lt (Nat.lt_succ_of_lt hk)
  rw [State.ringBit, hmod, if_neg (Nat.ne_of_lt hk)]

theorem State.ringBit_add_nine (s : State) (k : Nat) : s.ringBit (k + 9) = s.ringBit k := by
  simp only [State.ringBit, Nat.add_mod_right]

/-- R252: `t` holds the ring of `s` turned one place, where its A and CY have the bits of `s` one place up. -/
theorem State.ringBit_succ_of_bits (hzero : t.regs.a.getLsbD 0 = s.flags.cy)
    (hsucc : ∀ k : Nat, k < 7 → t.regs.a.getLsbD (k + 1) = s.regs.a.getLsbD k)
    (hcy : t.flags.cy = s.regs.a.getLsbD 7) (k : Nat) : t.ringBit (k + 1) = s.ringBit k := by
  unfold State.ringBit
  obtain hk | hk | hk : k % 9 = 8 ∨ k % 9 = 7 ∨ k % 9 < 7 := by omega
  · have hnext : (k + 1) % 9 = 0 := by omega
    simpa [hk, hnext] using hzero
  · have hnext : (k + 1) % 9 = 8 := by omega
    simpa [hk, hnext] using hcy
  · have hnext : (k + 1) % 9 = k % 9 + 1 := by omega
    rw [hnext, if_neg (by omega), if_neg (by omega)]
    exact hsucc _ hk

/-! ### The state apart from the ring -/

/-- A and CY written, the other flags kept. -/
def State.setAccCy (s : State) (v : Byte) (c : Bool) : State := s.setAcc (v, { s.flags with cy := c })

/-- A and CY are written with the values they have. -/
theorem State.setAccCy_self (s : State) : s.setAccCy s.regs.a s.flags.cy = s := rfl

/-- States that agree on the ring and on everything else are equal. -/
theorem State.eq_of_ringBit (hring : ∀ k, t.ringBit k = s.ringBit k)
    (hrest : ∀ v c, t.setAccCy v c = s.setAccCy v c) : t = s := by
  have ha : t.regs.a = s.regs.a := BitVec.eq_of_getLsbD_eq fun k hk => by
    rw [← t.ringBit_of_lt hk, ← s.ringBit_of_lt hk, hring]
  have hcy : t.flags.cy = s.flags.cy := hring 8
  calc t = t.setAccCy t.regs.a t.flags.cy := t.setAccCy_self.symm
    _ = s.setAccCy s.regs.a s.flags.cy := by rw [ha, hcy, hrest]
    _ = s := s.setAccCy_self

/-! ### RAL and RAR -/

theorem setAccCy_after_ral (s : State) (v : Byte) (c : Bool) : (after .ral s).setAccCy v c = s.setAccCy v c := rfl

theorem setAccCy_after_rar (s : State) (v : Byte) (c : Bool) : (after .rar s).setAccCy v c = s.setAccCy v c := rfl

/-- R252: RAL turns the ring one place. -/
theorem ringBit_succ_after_ral (s : State) : ∀ k, (after .ral s).ringBit (k + 1) = s.ringBit k :=
  State.ringBit_succ_of_bits (getLsbD_zero_shiftLeft_or _ _) (fun _ hk => getLsbD_succ_shiftLeft_or _ _ hk) rfl

/-- R253: the ring RAR leaves is the one that turns into the ring it found. -/
theorem ringBit_after_rar (s : State) (k : Nat) : (after .rar s).ringBit k = s.ringBit (k + 1) :=
  (State.ringBit_succ_of_bits (s := after .rar s) (t := s) rfl (fun _ hk => (getLsbD_shiftRight_or _ _ hk).symm)
    (getLsbD_seven_shiftRight_or _ _).symm k).symm

/-- R252: `n` RALs turn the ring `n` places. -/
theorem ringBit_add_iterate_ral (s : State) (n k : Nat) : ((after .ral)^[n] s).ringBit (k + n) = s.ringBit k := by
  induction n with
  | zero => rfl
  | succ n ih => rw [Function.iterate_succ_apply', ← Nat.add_assoc, ringBit_succ_after_ral, ih]

theorem setAccCy_iterate_ral (s : State) (n : Nat) (v : Byte) (c : Bool) :
    ((after .ral)^[n] s).setAccCy v c = s.setAccCy v c := by
  induction n with
  | zero => rfl
  | succ n ih => rw [Function.iterate_succ_apply', setAccCy_after_ral, ih]

/-- R252: nine places are once around the ring. -/
theorem iterate_ral_nine (s : State) : (after .ral)^[9] s = s := by
  refine State.eq_of_ringBit (fun k => ?_) (setAccCy_iterate_ral s 9)
  rw [← State.ringBit_add_nine, ringBit_add_iterate_ral]

/-- R252, R253: RAR turns the ring back. -/
theorem leftInverse_rar_ral : Function.LeftInverse (after .rar) (after .ral) := fun s =>
  State.eq_of_ringBit (fun k => (ringBit_after_rar _ k).trans (ringBit_succ_after_ral s k))
    fun v c => (setAccCy_after_rar _ v c).trans (setAccCy_after_ral s v c)

/-- R253: nine RARs undo nine RALs, which change nothing. -/
theorem iterate_rar_nine (s : State) : (after .rar)^[9] s = s :=
  calc (after .rar)^[9] s = (after .rar)^[9] ((after .ral)^[9] s) := by rw [iterate_ral_nine]
    _ = s := leftInverse_rar_ral.iterate 9 s

/-- Settles O48: RAL and RAR turn a ring of nine bits by one place, in opposite directions. -/
theorem nineRotatesThroughCarryRestore : Obligations.NineRotatesThroughCarryRestore := fun s =>
  ⟨iterate_ral_nine s, iterate_rar_nine s, leftInverse_rar_ral s⟩

end Sys2Proof.Machine
end

section
/-! PROOFS. Calls, restarts and returns (45_control_flow.md R273 to R277). -/

namespace Sys2Proof.Machine

variable {s : State}

/-! ### Calls and restarts -/

/-- R88, R277: the target of RST n is 8n. -/
theorem rstTarget_eq_ofNat (n : BitVec 3) : rstTarget n = BitVec.ofNat 16 (n.toNat * 8) := by
  rw [BitVec.ofNat_mul, BitVec.ofNat_toNat]
  rfl

/-- R274: an instruction that calls where its condition holds, by what the condition says of the flags. -/
theorem callsTo_or_unchanged_of_exec {i : Instr} {ccc : Cond} {w : Word} {p : Prop} [Decidable p]
    (hwf : Memory.wf s.mem = true) (hexec : exec i s = .next (s.callIf ccc w)) (hcond : s.flags.cond ccc = true ↔ p) :
    if p then CallsTo i s w else exec i s = .next s := by
  split
  case isTrue hp => exact callsTo_of_exec hwf (hexec.trans (congrArg Host.Outcome.next (if_pos (hcond.mpr hp))))
  case isFalse hp => exact hexec.trans (congrArg Host.Outcome.next (if_neg (mt hcond.mp hp)))

/-- Settles O51: CALL and RST are `callTo` their target, and each conditional call is `callIf` of its condition, which holds
where a flag is set or where it is clear (R153). -/
theorem callsPushTheReturnAddress : Obligations.CallsPushTheReturnAddress := by
  intro w n s hwf
  have hclear (b : Bool) : (!b) = true ↔ b = false := iff_of_eq (Bool.not_eq_true' b)
  exact ⟨⟨rfl, faultsAtFetchOnly _, callsTo_of_exec hwf rfl⟩,
    ⟨rfl, rstTarget_eq_ofNat n ▸ callsTo_of_exec hwf rfl⟩,
    ⟨rfl, faultsAtFetchOnly _, callsTo_or_unchanged_of_exec hwf rfl (hclear _)⟩,
    ⟨rfl, faultsAtFetchOnly _, callsTo_or_unchanged_of_exec hwf rfl Iff.rfl⟩,
    ⟨rfl, faultsAtFetchOnly _, callsTo_or_unchanged_of_exec hwf rfl (hclear _)⟩,
    ⟨rfl, faultsAtFetchOnly _, callsTo_or_unchanged_of_exec hwf rfl Iff.rfl⟩,
    ⟨rfl, faultsAtFetchOnly _, callsTo_or_unchanged_of_exec hwf rfl (hclear _)⟩,
    ⟨rfl, faultsAtFetchOnly _, callsTo_or_unchanged_of_exec hwf rfl Iff.rfl⟩,
    ⟨rfl, faultsAtFetchOnly _, callsTo_or_unchanged_of_exec hwf rfl (hclear _)⟩,
    ⟨rfl, faultsAtFetchOnly _, callsTo_or_unchanged_of_exec hwf rfl Iff.rfl⟩⟩

/-! ### Returns -/

/-- R276: an instruction that returns where its condition holds, by what the condition says of the flags. -/
theorem returns_or_unchanged_of_exec {i : Instr} {ccc : Cond} {p : Prop} [Decidable p]
    (hexec : exec i s = .next (s.returnIf ccc)) (hcond : s.flags.cond ccc = true ↔ p) :
    if p then Returns i s else exec i s = .next s := by
  split
  case isTrue hp => exact returns_of_exec (hexec.trans (congrArg Host.Outcome.next (if_pos (hcond.mpr hp))))
  case isFalse hp => exact hexec.trans (congrArg Host.Outcome.next (if_neg (mt hcond.mp hp)))

/-- Settles O52: RET is `returnFrom`, and each conditional return is `returnIf` of its condition (R153). -/
theorem returnsPopPc : Obligations.ReturnsPopPc := by
  intro s
  have hclear (b : Bool) : (!b) = true ↔ b = false := iff_of_eq (Bool.not_eq_true' b)
  exact ⟨⟨rfl, returns_of_exec rfl⟩,
    ⟨rfl, returns_or_unchanged_of_exec rfl (hclear _)⟩, ⟨rfl, returns_or_unchanged_of_exec rfl Iff.rfl⟩,
    ⟨rfl, returns_or_unchanged_of_exec rfl (hclear _)⟩, ⟨rfl, returns_or_unchanged_of_exec rfl Iff.rfl⟩,
    ⟨rfl, returns_or_unchanged_of_exec rfl (hclear _)⟩, ⟨rfl, returns_or_unchanged_of_exec rfl Iff.rfl⟩,
    ⟨rfl, returns_or_unchanged_of_exec rfl (hclear _)⟩, ⟨rfl, returns_or_unchanged_of_exec rfl Iff.rfl⟩⟩

/-! ### A return right after a call -/

/-- R273, R275: a return right after a call leaves the state of before with the pushed bytes in memory. -/
theorem State.returnFrom_callTo (hwf : Memory.wf s.mem = true) (hne : s.phys (s.sp - 1) ≠ s.phys (s.sp - 2))
    (target : Word) : (s.callTo target).returnFrom = { s with mem := (s.push16 s.pc).mem } := by
  obtain ⟨-, -, -, htop, hsp⟩ := popGivesBackThePushedWord s s.pc hwf hne
  calc (s.callTo target).returnFrom
      = { s with mem := (s.push16 s.pc).mem, pc := (s.push16 s.pc).top16, sp := (s.push16 s.pc).dropTop16.sp } := rfl
    _ = { s with mem := (s.push16 s.pc).mem } := by rw [htop, hsp]

/-- R275: RET right after an instruction that calls comes back to the return address. -/
theorem ret_comesBack_of_exec {i : Instr} {target : Word} (hwf : Memory.wf s.mem = true)
    (hne : s.phys (s.sp - 1) ≠ s.phys (s.sp - 2)) (hexec : exec i s = .next (s.callTo target)) :
    ∃ t u, exec i s = .next t ∧ exec .ret t = .next u ∧ u.pc = s.pc ∧ u.sp = s.sp ∧ u.regs = s.regs ∧
      u.flags = s.flags :=
  ⟨_, _, hexec, congrArg Host.Outcome.next (State.returnFrom_callTo hwf hne target), rfl, rfl, rfl, rfl⟩

/-- Settles O53: CALL and RST are both `callTo`, which a return undoes up to the memory pushed to. -/
theorem returnAfterCallComesBack : Obligations.ReturnAfterCallComesBack := fun _ _ _ hwf hne =>
  ⟨ret_comesBack_of_exec hwf hne rfl, ret_comesBack_of_exec hwf hne rfl⟩

end Sys2Proof.Machine
end

section
/-! PROOFS. The stack instructions (46_stack.md R300 to R307): what a push leaves in memory, what a pop loads, a pop right
after a push, and the exchange of HL with the word at SP. -/

namespace Sys2Proof.Machine

variable {s : State}

/-! ### Pushes -/

/-- R56: the low byte of a word pushed, which is written last. -/
theorem State.memRead_push16_low (hwf : Memory.wf s.mem = true) (v : Word) :
    (s.push16 v).memRead (s.sp - 2) = loByte v := by
  rw [State.memRead_push16 hwf, if_pos rfl]

/-- R56: the byte above it: the high byte of the word pushed, unless the low byte shares the index. -/
theorem State.memRead_push16_high (hwf : Memory.wf s.mem = true) (v : Word) :
    (s.push16 v).memRead (s.sp - 1) = if s.phys (s.sp - 1) = s.phys (s.sp - 2) then loByte v else hiByte v := by
  rw [State.memRead_push16 hwf, if_pos (rfl : s.phys (s.sp - 1) = s.phys (s.sp - 1))]

/-- R27: the packed byte, each flag at its place value. -/
theorem Flags.pack_eq_ofNat (f : Flags) :
    f.pack = BitVec.ofNat 8 (f.s.toNat * 128 + f.z.toNat * 64 + f.ac.toNat * 16 + f.p.toNat * 4 + 2 + f.cy.toNat) := by
  rw [← f.toNat_pack, BitVec.ofNat_toNat, BitVec.setWidth_eq]

/-- Settles O54: PUSH is `push16` of the word of its pair, whose two bytes are the registers, or A and the flag byte. -/
theorem pushStoresTheWord : Obligations.PushStoresTheWord := by
  intro rp s hwf
  refine ⟨rfl, _, hiByte (s.readStackPair rp), loByte (s.readStackPair rp), rfl, ?_, s.push16_sp_eq _,
    State.memRead_push16_low hwf _, State.memRead_push16_high hwf _, Frame.push16 hwf _⟩
  cases rp with
  | bc | de | hl => exact Prod.ext (hiByte_wordOf _ _) (loByte_wordOf _ _)
  | psw => exact Prod.ext (hiByte_wordOf _ _) ((loByte_wordOf _ _).trans s.flags.pack_eq_ofNat)

/-! ### Pops -/

theorem State.loByte_top16 (s : State) : loByte s.top16 = s.memRead s.sp := loByte_wordOf _ _

theorem State.hiByte_top16 (s : State) : hiByte s.top16 = s.memRead (s.sp + 1) := hiByte_wordOf _ _

/-- Settles O55: POP writes the two bytes of the word at SP to its pair, or to A and, unpacked, to the flags. -/
theorem popLoadsTheWord : Obligations.PopLoadsTheWord := by
  intro s
  have hlow := s.loByte_top16
  have hhigh := s.hiByte_top16
  have hflags : Flags.unpack (loByte s.top16) = Flags.unpack (s.memRead s.sp) := congrArg Flags.unpack hlow
  exact ⟨⟨rfl, _, rfl, hlow, hhigh, rfl, Frame.pop .bc s _⟩,
    ⟨rfl, _, rfl, hlow, hhigh, rfl, Frame.pop .de s _⟩,
    ⟨rfl, _, rfl, hlow, hhigh, rfl, Frame.pop .hl s _⟩,
    ⟨rfl, _, rfl, congrArg Flags.s hflags, congrArg Flags.z hflags, congrArg Flags.ac hflags, congrArg Flags.p hflags,
      congrArg Flags.cy hflags, hhigh, rfl, Frame.pop .psw s _⟩⟩

/-! ### A pop right after a push -/

/-- R23: a pair is written with the value it has. -/
theorem State.setBc_bc (s : State) : s.setBc s.bc = s := by
  simp [State.setBc, State.bc, State.writeReg, Regs.set]

/-- R24: a pair, or A and the flags, written with the value read from it. -/
theorem State.writeStackPair_readStackPair (s : State) (p : StackPair) :
    s.writeStackPair p (s.readStackPair p) = s := by
  cases p with
  | bc => exact s.setBc_bc
  | de => exact s.setDe_de
  | hl => exact s.setHl_hl
  | psw => simp [State.writeStackPair, State.readStackPair, State.setFlags, State.writeReg, Regs.set]

/-- R24: a pair read back after it was written; PSW is left out, as the flag byte keeps five of its eight bits. -/
theorem State.readStackPair_writeStackPair (s : State) {q : StackPair} (hq : q ≠ .psw) (v : Word) :
    (s.writeStackPair q v).readStackPair q = v := by
  cases q with
  | bc => exact s.bc_setBc v
  | de => exact s.de_setDe v
  | hl => exact s.hl_setHl v
  | psw => exact absurd rfl hq

/-- R56: a word pushed and dropped leaves the state of before with the pushed bytes in memory. -/
theorem State.dropTop16_push16 (s : State) (v : Word) :
    (s.push16 v).dropTop16 = { s with mem := (s.push16 v).mem } :=
  calc (s.push16 v).dropTop16
      = { s with mem := (s.push16 v).mem, sp := (s.push16 v).sp + 2 } := rfl
    _ = { s with mem := (s.push16 v).mem } := by rw [State.push16_sp_eq, BitVec.sub_add_cancel]

/-- R307: a pop right after a push writes the pushed word to its pair, in the state of before with the pushed bytes in
memory. -/
theorem after_pop_after_push (hwf : Memory.wf s.mem = true) (hne : s.phys (s.sp - 1) ≠ s.phys (s.sp - 2))
    (p q : StackPair) :
    after (.pop q) (after (.push p) s) =
      State.writeStackPair { s with mem := (s.push16 (s.readStackPair p)).mem } q (s.readStackPair p) := by
  obtain ⟨-, -, -, htop, -⟩ := popGivesBackThePushedWord s (s.readStackPair p) hwf hne
  calc after (.pop q) (after (.push p) s)
      = (s.push16 (s.readStackPair p)).dropTop16.writeStackPair q (s.push16 (s.readStackPair p)).top16 := rfl
    _ = _ := by rw [htop, s.dropTop16_push16]

/-- R307: a pop of the pair just pushed leaves the state of before with the pushed bytes in memory. -/
theorem after_pop_after_push_self (hwf : Memory.wf s.mem = true) (hne : s.phys (s.sp - 1) ≠ s.phys (s.sp - 2))
    (p : StackPair) :
    after (.pop p) (after (.push p) s) = { s with mem := (s.push16 (s.readStackPair p)).mem } :=
  (after_pop_after_push hwf hne p p).trans (State.writeStackPair_readStackPair { s with mem := _ } p)

/-- Settles O56: of the pair just pushed, everything but memory is as before; of another pair, the pushed word is read back
from it. -/
theorem pushThenPopRestores : Obligations.PushThenPopRestores := by
  intro p q s hwf hne
  obtain ⟨-, hhigh, hlow, -, -⟩ := popGivesBackThePushedWord s (s.readStackPair p) hwf hne
  rw [after_pop_after_push_self hwf hne, after_pop_after_push hwf hne]
  exact ⟨rfl, rfl, rfl, hhigh, hlow, fun hq => State.readStackPair_writeStackPair _ hq _⟩

/-! ### XTHL and SPHL -/

/-- Settles O57: XTHL writes the word of HL at SP and the word read there before to HL; SPHL writes SP alone. -/
theorem xthlExchangesAndSphlCopies : Obligations.XthlExchangesAndSphlCopies := by
  intro s hwf
  have hh : hiByte s.hl = s.regs.h := hiByte_wordOf _ _
  have hl : loByte s.hl = s.regs.l := loByte_wordOf _ _
  refine ⟨⟨rfl, _, rfl, loByte_wordOf _ _, hiByte_wordOf _ _, ?_, ?_, Frame.xthl hwf _ _⟩,
    rfl, _, rfl, rfl, Frame.setSp rfl s _⟩
  · rw [State.setHl_memRead, State.memRead_memWrite16_high hwf, hh]
  · rw [State.setHl_memRead, State.memRead_memWrite16_low hwf, hh, hl]

end Sys2Proof.Machine
end

section
/-! PROOFS. The interrupt enable, the halt and NOP (47_io_machine_control.md R323 to R326). -/

namespace Sys2Proof.Machine

variable {s t : State} {i : Instr}

/-- R124, R132: the step of a fetched one-byte instruction is its execution with pc at the next byte. -/
theorem step_of_fetch_one_byte (hlen : i.length = 1) (hexec : exec i { s with pc := s.pc + 1 } = .next t)
    (hrun : s.run = .running) (hfetch : s.fetch = .ok i) : step s = .next t :=
  calc step s = exec i (s.advancePc i.length) := by rw [step_running hrun, hfetch]
    _ = exec i { s with pc := s.pc + 1 } := by rw [hlen]; rfl
    _ = .next t := hexec

/-- Settles O59: each of the four is one byte long, so its step is its execution with pc at the next byte. -/
theorem eiDiHltAndNop : Obligations.EiDiHltAndNop := fun _ =>
  ⟨⟨rfl, rfl, step_of_fetch_one_byte rfl rfl⟩, ⟨rfl, rfl, step_of_fetch_one_byte rfl rfl⟩,
    ⟨rfl, rfl, step_of_fetch_one_byte rfl rfl⟩, ⟨rfl, rfl, step_of_fetch_one_byte rfl rfl⟩⟩

end Sys2Proof.Machine
end

section
/-! PROOFS. The fetch fault is the only fault (60_exceptions.md R350 to R352). -/

namespace Sys2Proof.Machine

/-- Settles O9: execution completes, so an instruction can fault at its fetch only. -/
theorem everyInstructionFaultsAtFetchOnly : Obligations.EveryInstructionFaultsAtFetchOnly := faultsAtFetchOnly

/-- Settles O10: some instruction stands at pc, whatever the bytes there, and all of memory is in the window. -/
theorem memoryWindowNeverFaults : Obligations.MemoryWindowNeverFaults := by
  intro s hrun hmemory
  obtain ⟨hcompletes, -⟩ := faultsAtFetchOnly s.instrAtPc s hrun s.instrAtPc_wf State.memRead_of_encode_instrAtPc
  obtain ⟨t, hstep, -, ht⟩ := hcompletes fun _ _ => s.inWindow_memory hmemory _
  exact ⟨t, hstep, ht⟩

end Sys2Proof.Machine
end

section
/-! PROOFS. No step changes a parameter (70_reset_and_hazards.md R387, 00_scope.md R7). -/

namespace Sys2Proof.Machine

variable {s t : State}

theorem keptByUpdates_params (p : Params) : KeptByUpdates fun t => t.params = p where
  writeReg _ _ h := h
  setFlags _ h := h
  drawFlags _ h := h
  setSp _ h := h
  setPc _ h := h
  setInte _ h := h
  setRun _ h := h
  memWrite _ _ h := h

/-- R65: a call of the handler is at most a new entry of the port log. -/
@[simp] theorem State.callPort_params (s : State) (e : PortEvent) : (s.callPort e).params = s.params := by
  obtain ⟨-, he⟩ | ⟨-, he⟩ := s.callPort_cases e <;> rw [he]

/-- R7: every instruction completes with the parameters it started with. -/
theorem exec_params (i : Instr) (s : State) : ∃ t, exec i s = .next t ∧ t.params = s.params :=
  exec_keeps (keptByUpdates_params s.params) (fun _ _ e h => (State.callPort_params _ e).trans h) rfl

/-- R387: a step keeps the parameters, whether it faults at the fetch or runs an instruction. -/
theorem step_params (h : step s = .next t) : t.params = s.params := by
  obtain ⟨-, ⟨r, -, rfl⟩ | ⟨i, -, hexec⟩⟩ := step_cases h
  · exact s.raise_params r
  · obtain ⟨t', ht', hparams⟩ := exec_params i (s.advancePc i.length)
    obtain rfl := Host.Outcome.next.inj (hexec.symm.trans ht')
    exact hparams

/-- Settles O14: a step keeps the parameters, and the window depends on them alone. -/
theorem stepKeepsTheParameters : Obligations.StepKeepsTheParameters := fun _ _ hstep =>
  ⟨step_params hstep, State.inWindow_congr (step_params hstep)⟩

end Sys2Proof.Machine
end

section
/-! PROOFS. The start of a run (70_reset_and_hazards.md R381, R382): memory with its INIT bytes, then the image
loaded. -/

namespace Sys2Proof.Machine

/-- R62: loading bytes changes memory alone. -/
theorem State.loadBytes_eq_with_mem (s : State) (a : Word) (bytes : List Byte) :
    s.loadBytes a bytes = { s with mem := (s.loadBytes a bytes).mem } := by
  induction bytes generalizing s a with
  | nil => rfl
  | cons v rest ih => exact ih (s.memWrite a v) (a + 1)

/-- R381 step 1: memory with its INIT bytes is canonical and within the capacity. -/
theorem Init.memory_wf_and_below (init : Init) {memSize : Nat} (hpos : 0 < memSize) :
    Memory.wf (init.memory memSize) = true ∧ Memory.below memSize (init.memory memSize) = true :=
  List.foldlRecOn (motive := fun m => Memory.wf m = true ∧ Memory.below memSize m = true) init.cells _ ⟨rfl, rfl⟩
    fun _ ⟨hwf, hbelow⟩ cell _ =>
      ⟨Memory.wf_write hwf _ _, Memory.below_write hbelow (Nat.mod_lt cell.1 hpos) cell.2⟩

/-- R7: an image that fits leaves the parameters in their ranges. -/
theorem Params.wf_with_imageLen {p : Params} {n : Nat} (hlow : 1 ≤ p.memSize) (hhigh : p.memSize ≤ 65536)
    (hn : n ≤ p.memSize) : Params.wf { p with imageLen := n } = true := by
  simp [Params.wf, hlow, hhigh, hn]

section Starts

variable {p : Params} (init : Init) {image : List Byte} (hlow : 1 ≤ p.memSize) (hhigh : p.memSize ≤ 65536)
  (hfits : image.length ≤ p.memSize)
include hlow hhigh hfits

/-- R381 steps 4 to 6: the state before the image is loaded meets the invariant. -/
theorem inv_initialState : Inv (initialState p init image) :=
  ⟨Params.wf_with_imageLen hlow hhigh hfits, init.memory_wf_and_below hlow⟩

/-- R381: a capacity in range and an image that fits start a run. -/
theorem startOfRun_of_fits : startOfRun p init image = .next ((initialState p init image).loadBytes p.base image) := by
  have hrange : ¬(p.memSize = 0 ∨ p.memSize > 65536) := by omega
  rw [startOfRun, if_neg hrange, if_neg (Nat.not_lt.mpr hfits)]

end Starts

/-- Settles O17: loading the image changes memory alone, so every other cell is that of the state before the load, which
meets the invariant; a byte of memory is the last one loaded at its index, or INIT's where none is. -/
theorem startOfRunState : Obligations.StartOfRunState := by
  intro p init image hlow hhigh hfits
  have hinv := inv_initialState init hlow hhigh hfits
  obtain ⟨hwf, -⟩ := init.memory_wf_and_below hlow
  obtain ⟨hpc, hrun, hparams⟩ := (initialState p init image).loadBytes_frame p.base image
  have hload := (initialState p init image).loadBytes_eq_with_mem p.base image
  refine ⟨_, startOfRun_of_fits init hlow hhigh hfits, hrun, hpc, congrArg State.inte hload,
    congrArg State.portLog hload, congrArg State.regs hload, congrArg State.flags hload, congrArg State.sp hload,
    hparams, State.inv_loadBytes hinv p.base image, fun k hk hlast => ?_, fun a hne => ?_⟩
  · have hbyte := List.getElem?_eq_getElem hk
    simp only [State.phys_congr hparams] at hlast
    rw [hbyte, State.memRead_loadBytes hwf hbyte fun j hkj hj => (hlast j hkj hj).symm]
  · simp only [State.phys_congr hparams] at hne ⊢
    exact State.memRead_loadBytes_of_ne hwf hne

end Sys2Proof.Machine
end
